-- ==== Sys2Proof/Word.lean ====
section
/-! DEFINITION. The word types of the CHIP-8 core (00_scope.md R6, R9): every value is unsigned,
arithmetic is that of `BitVec`, which wraps modulo a power of two. -/

namespace Sys2Proof

/-- An 8-bit value: a general register, a timer, a memory byte, the immediate `kk`. -/
abbrev Byte := BitVec 8

/-- A 16-bit value: `I`, `pc`, a return address, an instruction word. -/
abbrev Word := BitVec 16

/-- A 4-bit slice of an instruction word (00_scope.md R14, "nibble"). -/
abbrev Nibble := BitVec 4

/-- The 12-bit field `nnn` (30_encoding.md R71, R72). -/
abbrev Addr := BitVec 12

/-- The number of a general register, V0 to VF (10_state.md R21). -/
abbrev Reg := Fin 16

end Sys2Proof
end

