-- ==== Sys2Proof/Syntax.lean ====
section
/-! DEFINITION. The instructions of the core: one constructor for each of the 34 rows of
30_encoding.md R75 (spec/opcode_table.json). Operands are the fields of R71. A field named `ign`
holds the bits of the word that decode and execution ignore (R78); it is kept so that an instruction
encodes to the very word it was read from, which a fault record shows (60_exceptions.md R214, log 6). -/

namespace Sys2Proof

inductive Instr where
  /-- `00E0`, ignored bits 11:8. CLS, R172. -/
  | cls (ign : Nibble)
  /-- `00EE`, ignored bits 11:8. RET, R102. -/
  | ret (ign : Nibble)
  /-- `1nnn`. JP addr, R100. -/
  | jp (nnn : Addr)
  /-- `2nnn`. CALL addr, R101. -/
  | call (nnn : Addr)
  /-- `3xkk`. SE Vx,kk, R103. -/
  | seImm (x : Reg) (kk : Byte)
  /-- `4xkk`. SNE Vx,kk, R104. -/
  | sneImm (x : Reg) (kk : Byte)
  /-- `5xy.`, ignored bits 3:0. SE Vx,Vy, R105. -/
  | seReg (x y : Reg) (ign : Nibble)
  /-- `6xkk`. LD Vx,kk, R121. -/
  | ldImm (x : Reg) (kk : Byte)
  /-- `7xkk`. ADD Vx,kk, R122. -/
  | addImm (x : Reg) (kk : Byte)
  /-- `8xy0`. LD Vx,Vy, R123. -/
  | ldReg (x y : Reg)
  /-- `8xy1`. OR Vx,Vy, R124. -/
  | orReg (x y : Reg)
  /-- `8xy2`. AND Vx,Vy, R125. -/
  | andReg (x y : Reg)
  /-- `8xy3`. XOR Vx,Vy, R126. -/
  | xorReg (x y : Reg)
  /-- `8xy4`. ADD Vx,Vy, R127. -/
  | addReg (x y : Reg)
  /-- `8xy5`. SUB Vx,Vy, R128. -/
  | sub (x y : Reg)
  /-- `8x.6`, ignored bits 7:4. SHR Vx, R129. -/
  | shr (x : Reg) (ign : Nibble)
  /-- `8xy7`. SUBN Vx,Vy, R130. -/
  | subn (x y : Reg)
  /-- `8x.E`, ignored bits 7:4. SHL Vx, R131. -/
  | shl (x : Reg) (ign : Nibble)
  /-- `9xy.`, ignored bits 3:0. SNE Vx,Vy, R106. -/
  | sneReg (x y : Reg) (ign : Nibble)
  /-- `Annn`. LD I,addr, R150. -/
  | ldI (nnn : Addr)
  /-- `Bnnn`. JP V0,addr, R107. -/
  | jpV0 (nnn : Addr)
  /-- `Cxkk`. RND Vx,kk, R132. -/
  | rnd (x : Reg) (kk : Byte)
  /-- `Dxyn`. DRW Vx,Vy,n, R173. `n` is a count of rows (0 to 15 when well formed). -/
  | drw (x y : Reg) (n : Nat)
  /-- `Ex9E`. SKP Vx, R193. -/
  | skp (x : Reg)
  /-- `ExA1`. SKNP Vx, R194. -/
  | sknp (x : Reg)
  /-- `Fx07`. LD Vx,DT, R190. -/
  | ldVxDT (x : Reg)
  /-- `Fx0A`. LD Vx,K, R195. -/
  | ldVxK (x : Reg)
  /-- `Fx15`. LD DT,Vx, R191. -/
  | ldDTVx (x : Reg)
  /-- `Fx18`. LD ST,Vx, R192. -/
  | ldSTVx (x : Reg)
  /-- `Fx1E`. ADD I,Vx, R151. -/
  | addI (x : Reg)
  /-- `Fx29`. LD F,Vx, R152. -/
  | ldF (x : Reg)
  /-- `Fx33`. LD B,Vx, R153. -/
  | ldB (x : Reg)
  /-- `Fx55`. LD [I],Vx, R154. -/
  | storeRegs (x : Reg)
  /-- `Fx65`. LD Vx,[I], R155. -/
  | loadRegs (x : Reg)
  deriving DecidableEq, Repr

end Sys2Proof
end

