-- ==== Sys2Proof/Decode.lean ====
section
/-! DEFINITION. The decoder (30_encoding.md R70 to R78): total on any bytes, rejecting by name; and
after it the encoder, written from the same table. The bit patterns are the spec's general knowledge
G1 (PRESUMED, log 5); keying kinds 0x0 and 0xE on `kk` is the spec's decision D8 (log 6). -/

namespace Sys2Proof

/-! ### Fields (R71) -/

/-- `kind`, `w[15:12]`. -/
def fieldKind (w : Word) : Nibble := w.extractLsb' 12 4

/-- Bits `w[11:8]`: the field `x`, or ignored bits. -/
def fieldX (w : Word) : Nibble := w.extractLsb' 8 4

/-- Bits `w[7:4]`: the field `y`, or ignored bits. -/
def fieldY (w : Word) : Nibble := w.extractLsb' 4 4

/-- `n`, `w[3:0]`. -/
def fieldN (w : Word) : Nibble := w.extractLsb' 0 4

/-- `kk`, `w[7:0]`. -/
def fieldKK (w : Word) : Byte := w.extractLsb' 0 8

/-- `nnn`, `w[11:0]`. -/
def fieldNNN (w : Word) : Addr := w.extractLsb' 0 12

/-- A field that names a register (R72). -/
def regOfField (f : Nibble) : Reg := ⟨f.toNat, f.isLt⟩

/-- The field that names a register. -/
def fieldOfReg (r : Reg) : Nibble := BitVec.ofNat 4 r.val

/-! ### Decoding one word (R73, R74) -/

/-- Kind 0x0, keyed on `kk`. -/
def decodeKind0 (w : Word) : Option Instr :=
  if fieldKK w = 0xE0#8 then some (.cls (fieldX w))
  else if fieldKK w = 0xEE#8 then some (.ret (fieldX w))
  else none

/-- Kind 0x8, keyed on `n`. -/
def decodeKind8 (w : Word) : Option Instr :=
  if fieldN w = 0x0#4 then some (.ldReg (regOfField (fieldX w)) (regOfField (fieldY w)))
  else if fieldN w = 0x1#4 then some (.orReg (regOfField (fieldX w)) (regOfField (fieldY w)))
  else if fieldN w = 0x2#4 then some (.andReg (regOfField (fieldX w)) (regOfField (fieldY w)))
  else if fieldN w = 0x3#4 then some (.xorReg (regOfField (fieldX w)) (regOfField (fieldY w)))
  else if fieldN w = 0x4#4 then some (.addReg (regOfField (fieldX w)) (regOfField (fieldY w)))
  else if fieldN w = 0x5#4 then some (.sub (regOfField (fieldX w)) (regOfField (fieldY w)))
  else if fieldN w = 0x6#4 then some (.shr (regOfField (fieldX w)) (fieldY w))
  else if fieldN w = 0x7#4 then some (.subn (regOfField (fieldX w)) (regOfField (fieldY w)))
  else if fieldN w = 0xE#4 then some (.shl (regOfField (fieldX w)) (fieldY w))
  else none

/-- Kind 0xE, keyed on `kk`. -/
def decodeKindE (w : Word) : Option Instr :=
  if fieldKK w = 0x9E#8 then some (.skp (regOfField (fieldX w)))
  else if fieldKK w = 0xA1#8 then some (.sknp (regOfField (fieldX w)))
  else none

/-- Kind 0xF, keyed on `kk`. -/
def decodeKindF (w : Word) : Option Instr :=
  if fieldKK w = 0x07#8 then some (.ldVxDT (regOfField (fieldX w)))
  else if fieldKK w = 0x0A#8 then some (.ldVxK (regOfField (fieldX w)))
  else if fieldKK w = 0x15#8 then some (.ldDTVx (regOfField (fieldX w)))
  else if fieldKK w = 0x18#8 then some (.ldSTVx (regOfField (fieldX w)))
  else if fieldKK w = 0x1E#8 then some (.addI (regOfField (fieldX w)))
  else if fieldKK w = 0x29#8 then some (.ldF (regOfField (fieldX w)))
  else if fieldKK w = 0x33#8 then some (.ldB (regOfField (fieldX w)))
  else if fieldKK w = 0x55#8 then some (.storeRegs (regOfField (fieldX w)))
  else if fieldKK w = 0x65#8 then some (.loadRegs (regOfField (fieldX w)))
  else none

/-- The instruction a word decodes to; `none` for a no-op word, one that matches no documented
instruction (R76, R77). The primary switch is on `kind` (R73). -/
def decodeWord (w : Word) : Option Instr :=
  match fieldKind w with
  | 0x0#4 => decodeKind0 w
  | 0x1#4 => some (.jp (fieldNNN w))
  | 0x2#4 => some (.call (fieldNNN w))
  | 0x3#4 => some (.seImm (regOfField (fieldX w)) (fieldKK w))
  | 0x4#4 => some (.sneImm (regOfField (fieldX w)) (fieldKK w))
  | 0x5#4 => some (.seReg (regOfField (fieldX w)) (regOfField (fieldY w)) (fieldN w))
  | 0x6#4 => some (.ldImm (regOfField (fieldX w)) (fieldKK w))
  | 0x7#4 => some (.addImm (regOfField (fieldX w)) (fieldKK w))
  | 0x8#4 => decodeKind8 w
  | 0x9#4 => some (.sneReg (regOfField (fieldX w)) (regOfField (fieldY w)) (fieldN w))
  | 0xA#4 => some (.ldI (fieldNNN w))
  | 0xB#4 => some (.jpV0 (fieldNNN w))
  | 0xC#4 => some (.rnd (regOfField (fieldX w)) (fieldKK w))
  | 0xD#4 => some (.drw (regOfField (fieldX w)) (regOfField (fieldY w)) (fieldN w).toNat)
  | 0xE#4 => decodeKindE w
  | 0xF#4 => decodeKindF w
  | _ => none

/-! ### Bytes and words (20_memory.md R55: big-endian) -/

/-- The word whose high byte is `hi` and low byte is `lo`. -/
def wordOfBytes (hi lo : Byte) : Word := BitVec.ofNat 16 (hi.toNat * 256 + lo.toNat)

/-- The byte of a word that lies at the lower address. -/
def highByte (w : Word) : Byte := w.extractLsb' 8 8

/-- The byte of a word that lies at the higher address. -/
def lowByte (w : Word) : Byte := w.extractLsb' 0 8

/-- Why a sequence of bytes is not read as an instruction. -/
inductive DecodeReject where
  /-- The word matches no documented instruction: the step runs it as a no-op (R76). -/
  | noOpWord (w : Word)
  /-- Fewer than two bytes are left (R70: every instruction is 2 bytes). -/
  | truncated
  deriving DecidableEq, Repr

/-- The first instruction of a sequence of bytes and the bytes after it. -/
def decode : List Byte → Except DecodeReject (Instr × List Byte)
  | hi :: lo :: rest =>
    match decodeWord (wordOfBytes hi lo) with
    | some i => .ok (i, rest)
    | none => .error (.noOpWord (wordOfBytes hi lo))
  | [_] => .error .truncated
  | [] => .error .truncated

/-- The word of an opcode-table row's bits: the low `nbits` bits of `w`, the bits above them zero. -/
def tableWord (nbits w : Nat) : Word := BitVec.ofNat 16 (w % 2 ^ nbits)

/-- The instruction the decoder reads from an instruction whose bits, numbered as the opcode table
numbers them, are `w`: the word is laid out in memory order and given to `decode`. -/
def decodeTableWord (nbits w : Nat) : Option Instr :=
  match decode [highByte (tableWord nbits w), lowByte (tableWord nbits w)] with
  | .ok (i, _) => some i
  | .error _ => none

/-! ### Encoding (R75) -/

/-- The word with fields `kind`, `x` and `kk` (R71: each field at its weight). -/
def wordXKK (kind x : Nibble) (kk : Byte) : Word :=
  BitVec.ofNat 16 (kind.toNat * 4096 + x.toNat * 256 + kk.toNat)

/-- The word with fields `kind`, `x`, `y` and `n`. -/
def wordXYN (kind x y n : Nibble) : Word :=
  BitVec.ofNat 16 (kind.toNat * 4096 + x.toNat * 256 + y.toNat * 16 + n.toNat)

/-- The word with fields `kind` and `nnn`. -/
def wordNNN (kind : Nibble) (nnn : Addr) : Word :=
  BitVec.ofNat 16 (kind.toNat * 4096 + nnn.toNat)

/-- The word of an instruction (the row of R75 it is an instance of). -/
def encode : Instr → Word
  | .cls ign => wordXKK 0x0#4 ign 0xE0#8
  | .ret ign => wordXKK 0x0#4 ign 0xEE#8
  | .jp nnn => wordNNN 0x1#4 nnn
  | .call nnn => wordNNN 0x2#4 nnn
  | .seImm x kk => wordXKK 0x3#4 (fieldOfReg x) kk
  | .sneImm x kk => wordXKK 0x4#4 (fieldOfReg x) kk
  | .seReg x y ign => wordXYN 0x5#4 (fieldOfReg x) (fieldOfReg y) ign
  | .ldImm x kk => wordXKK 0x6#4 (fieldOfReg x) kk
  | .addImm x kk => wordXKK 0x7#4 (fieldOfReg x) kk
  | .ldReg x y => wordXYN 0x8#4 (fieldOfReg x) (fieldOfReg y) 0x0#4
  | .orReg x y => wordXYN 0x8#4 (fieldOfReg x) (fieldOfReg y) 0x1#4
  | .andReg x y => wordXYN 0x8#4 (fieldOfReg x) (fieldOfReg y) 0x2#4
  | .xorReg x y => wordXYN 0x8#4 (fieldOfReg x) (fieldOfReg y) 0x3#4
  | .addReg x y => wordXYN 0x8#4 (fieldOfReg x) (fieldOfReg y) 0x4#4
  | .sub x y => wordXYN 0x8#4 (fieldOfReg x) (fieldOfReg y) 0x5#4
  | .shr x ign => wordXYN 0x8#4 (fieldOfReg x) ign 0x6#4
  | .subn x y => wordXYN 0x8#4 (fieldOfReg x) (fieldOfReg y) 0x7#4
  | .shl x ign => wordXYN 0x8#4 (fieldOfReg x) ign 0xE#4
  | .sneReg x y ign => wordXYN 0x9#4 (fieldOfReg x) (fieldOfReg y) ign
  | .ldI nnn => wordNNN 0xA#4 nnn
  | .jpV0 nnn => wordNNN 0xB#4 nnn
  | .rnd x kk => wordXKK 0xC#4 (fieldOfReg x) kk
  | .drw x y n => wordXYN 0xD#4 (fieldOfReg x) (fieldOfReg y) (BitVec.ofNat 4 n)
  | .skp x => wordXKK 0xE#4 (fieldOfReg x) 0x9E#8
  | .sknp x => wordXKK 0xE#4 (fieldOfReg x) 0xA1#8
  | .ldVxDT x => wordXKK 0xF#4 (fieldOfReg x) 0x07#8
  | .ldVxK x => wordXKK 0xF#4 (fieldOfReg x) 0x0A#8
  | .ldDTVx x => wordXKK 0xF#4 (fieldOfReg x) 0x15#8
  | .ldSTVx x => wordXKK 0xF#4 (fieldOfReg x) 0x18#8
  | .addI x => wordXKK 0xF#4 (fieldOfReg x) 0x1E#8
  | .ldF x => wordXKK 0xF#4 (fieldOfReg x) 0x29#8
  | .ldB x => wordXKK 0xF#4 (fieldOfReg x) 0x33#8
  | .storeRegs x => wordXKK 0xF#4 (fieldOfReg x) 0x55#8
  | .loadRegs x => wordXKK 0xF#4 (fieldOfReg x) 0x65#8

/-- The bytes of an instruction in memory order: the high byte first (R70). -/
def encodeBytes (i : Instr) : List Byte := [highByte (encode i), lowByte (encode i)]

end Sys2Proof
end

