-- ==== Sys2Proof/Config.lean ====
section
/-! DEFINITION. What an implementation fixes (00_scope.md R7: the open parameters) and the one free
value of the model (60_exceptions.md R229: the random byte of a step). The parameters are plain data
that `State` carries and no operation changes (log 1); their defaults stand in
Machine/Defaults.lean. -/

namespace Sys2Proof.Config

/-- `VF_WRITE_ORDER` (R7, 42_alu.md R133): which of the two writes of ADD Vx,Vy, SUB, SHR, SUBN and
SHL comes last, and so stays when the destination is VF. -/
inductive VfWriteOrder where
  /-- Each instruction's writes in the order its contract lists them. -/
  | docOrder
  /-- The flag is always written last. -/
  | flagLast
  deriving DecidableEq, Repr

/-- The open parameters of R7 that a model takes as arguments. -/
structure Params where
  /-- `TICK_ON_STEP`: a step that does not fault ends with one timer tick. -/
  tickOnStep : Bool
  /-- `VF_WRITE_ORDER`. -/
  vfWriteOrder : VfWriteOrder
  /-- `FAULT_ON_RESERVED_FETCH`: fetching below 0x200 is fatal. -/
  faultOnReservedFetch : Bool
  /-- `FONT`: the 80 bytes that font load writes at 0x050. -/
  font : Vector Byte 80
  deriving DecidableEq, Repr

/-- FREE VALUE (log 2; R229, D15): the random byte of the step that is the `n`-th to begin.
It has no body, so nothing can be proved of its values. -/
opaque randomByte : Nat → Byte

end Sys2Proof.Config
end

