-- ==== Sys2Proof/Machine/Defaults.lean ====
section
/-! DEFINITION. The spec's defaults for the open parameters (00_scope.md R7). The font bytes are the
spec's general knowledge G2 (PRESUMED, log 7). -/

namespace Sys2Proof.Machine

/-- The default `FONT` (70_reset_and_hazards.md R252): glyphs 0 to F, five rows each. -/
def defaultFont : Vector Byte 80 := #v[
  0xF0, 0x90, 0x90, 0x90, 0xF0,   0x20, 0x60, 0x20, 0x20, 0x70,
  0xF0, 0x10, 0xF0, 0x80, 0xF0,   0xF0, 0x10, 0xF0, 0x10, 0xF0,
  0x90, 0x90, 0xF0, 0x10, 0x10,   0xF0, 0x80, 0xF0, 0x10, 0xF0,
  0xF0, 0x80, 0xF0, 0x90, 0xF0,   0xF0, 0x10, 0x20, 0x40, 0x40,
  0xF0, 0x90, 0xF0, 0x90, 0xF0,   0xF0, 0x90, 0xF0, 0x10, 0xF0,
  0xF0, 0x90, 0xF0, 0x90, 0x90,   0xE0, 0x90, 0xE0, 0x90, 0xE0,
  0xF0, 0x80, 0x80, 0x80, 0xF0,   0xE0, 0x90, 0x90, 0x90, 0xE0,
  0xF0, 0x80, 0xF0, 0x80, 0xF0,   0xF0, 0x80, 0xF0, 0x80, 0x80]

/-- The defaults of R7: no tick on a step (D14), writes in document order (D10), a fetch below 0x200
is fatal (D5), the conventional font (D13). -/
def defaultParams : Config.Params where
  tickOnStep := false
  vfWriteOrder := .docOrder
  faultOnReservedFetch := true
  font := defaultFont

end Sys2Proof.Machine
end

