-- ==== Sys2Proof/Machine/Framebuffer.lean ====
section
/-! DEFINITION. The 64 x 32 framebuffer (10_state.md R30, 44_display.md R170) and the sprite
compositor (R171, R173 to R175). The 2048 pixels are held row by row (log 10); `pixelAt p` is the
manual's row-major `video[p]`. -/

namespace Sys2Proof.Machine

/-- 32 rows, top first, of 64 two-valued pixels, left first; `true` is on. -/
abbrev Framebuffer := Vector (Vector Bool 64) 32

/-- Every pixel off. -/
def Framebuffer.off : Framebuffer := Vector.replicate 32 (Vector.replicate 64 false)

/-- Pixel (column `c`, row `r`); outside the screen there is none, and the answer is off. -/
def Framebuffer.pixel (v : Framebuffer) (c r : Nat) : Bool :=
  if h : c < 64 ∧ r < 32 then v[r][c] else false

/-- `video[p]`: pixel (column `c`, row `r`) has the index `p = r * 64 + c` (R170). -/
def Framebuffer.pixelAt (v : Framebuffer) (p : Nat) : Bool := v.pixel (p % 64) (p / 64)

/-- `x0 = V[x] mod 64` (R173: the start position wraps). -/
def spriteColumn (a : Byte) : Nat := a.toNat % 64

/-- `y0 = V[y] mod 32` (R173). -/
def spriteRow (b : Byte) : Nat := b.toNat % 32

/-- The bit of a sprite row at sprite column `c`: bit 7 is column 0 (R171; PRESUMED, G3, log 8). -/
def spriteBit (row : Byte) (c : Nat) : Bool := row.getLsbD (7 - c)

/-- One sprite bit at screen position (`px`, `py`): dropped off screen (R174); a 1-bit toggles the
pixel, and turning an on-pixel off is a hit (R175). -/
def plotBit (px py : Nat) (bit : Bool) (acc : Framebuffer × Bool) : Framebuffer × Bool :=
  if h : px < 64 ∧ py < 32 then
    if bit then
      (acc.1.set py (acc.1[py].set px (!acc.1[py][px])), acc.2 || acc.1[py][px])
    else acc
  else acc

/-- The eight columns of one sprite row. -/
def drawRow (x0 py : Nat) (row : Byte) (acc : Framebuffer × Bool) : Framebuffer × Bool :=
  (List.range 8).foldl (fun acc c => plotBit (x0 + c) py (spriteBit row c) acc) acc

/-- The rows of a sprite, downwards from screen row `y0`: the framebuffer after, and whether any
on-pixel was turned off. -/
def drawRows (x0 : Nat) : Nat → List Byte → Framebuffer × Bool → Framebuffer × Bool
  | _, [], acc => acc
  | y0, row :: rows, acc => drawRows x0 (y0 + 1) rows (drawRow x0 y0 row acc)

end Sys2Proof.Machine
end

