-- ==== Sys2Proof/Machine/Memory.lean ====
section
/-! DEFINITION. The 4096-byte memory (20_memory.md R50 to R59): a list of (address, byte) pairs in one
canonical form, addresses strictly rising and no byte equal to what an unlisted address reads as.
That is zero, the spec's reset value of every byte (10_state.md R38; log 9). The range check of R53
belongs to the operations that access memory (Machine/Ops.lean). -/

namespace Sys2Proof.Machine

/-- `MEM_SIZE` (00_scope.md R6): addresses are 0x000 to 0xFFF. -/
def memSize : Nat := 0x1000

/-- What an address no cell lists reads as (R38). -/
def unlistedByte : Byte := 0

/-- The bytes of memory that differ from `unlistedByte`, by rising address. -/
abbrev Memory := List Host.Cell

/-- The byte at an address. -/
def Memory.read : Memory → Nat → Byte
  | [], _ => unlistedByte
  | c :: m, a => if c.1 = a then c.2 else Memory.read m a

/-- Every cell but the one at an address. -/
def Memory.erase (m : Memory) (a : Nat) : Memory := m.filter fun c => decide (c.1 ≠ a)

/-- A cell put in its place among cells of other addresses. -/
def Memory.insertCell : Memory → Nat → Byte → Memory
  | [], a, v => [(a, v)]
  | c :: m, a, v => if a < c.1 then (a, v) :: c :: m else c :: Memory.insertCell m a v

/-- Memory with one byte stored; storing what an unlisted address reads as removes the cell. -/
def Memory.write (m : Memory) (a : Nat) (v : Byte) : Memory :=
  if v = unlistedByte then m.erase a else (m.erase a).insertCell a v

/-- Memory with bytes stored at `a`, `a + 1`, and so on. -/
def Memory.writeBytes : Memory → Nat → List Byte → Memory
  | m, _, [] => m
  | m, a, v :: vs => Memory.writeBytes (m.write a v) (a + 1) vs

/-- The `n` bytes from `a` on. -/
def Memory.readBytes (m : Memory) (a : Nat) : Nat → List Byte
  | 0 => []
  | n + 1 => m.read a :: Memory.readBytes m (a + 1) n

/-- The canonical form. -/
def Memory.wf : Memory → Bool
  | [] => true
  | [c] => decide (c.2 ≠ unlistedByte)
  | c :: d :: m => decide (c.2 ≠ unlistedByte) && decide (c.1 < d.1) && Memory.wf (d :: m)

/-- No cell lies outside the address space (R50). -/
def Memory.inRange (m : Memory) : Bool := m.all fun c => decide (c.1 < memSize)

end Sys2Proof.Machine
end

