-- ==== Sys2Proof/Machine/State.lean ====
section
/-! DEFINITION. The state of the core (10_state.md R20 to R38), the fault record (60_exceptions.md
R210, R214), the reasons a step can stop, and reset. Every field is plain data. -/

namespace Sys2Proof.Machine

/-- The kinds of fatal condition (R210). -/
inductive FaultKind where
  /-- CALL when sp = 16. -/
  | stackOverflow
  /-- RET when sp = 0. -/
  | stackUnderflow
  /-- ROM load of more than 3584 bytes. -/
  | romTooLarge
  /-- A memory address above 0xFFF: fetch, DRW, LD B,Vx, LD [I],Vx, LD Vx,[I]. -/
  | memoryOutOfRange
  /-- SKP or SKNP with Vx > 15. -/
  | keyIndexOutOfRange
  /-- Instruction fetch below 0x200 while `FAULT_ON_RESERVED_FETCH`. -/
  | reservedFetch
  deriving DecidableEq, Repr

/-- The `detail` of a fault record (R214, the "info recorded" column of R210). -/
inductive FaultDetail where
  /-- ReservedFetch records only `ia`. -/
  | none
  | sp (n : Nat)
  | len (n : Nat)
  | addr (a : Nat)
  | key (k : Byte)
  deriving DecidableEq, Repr

/-- The fault record (R214); its `code` is `FaultRecord.code`. `ia` and `w` are absent where R214
says so. -/
structure FaultRecord where
  kind : FaultKind
  ia : Option Word
  w : Option Word
  detail : FaultDetail
  deriving DecidableEq, Repr

/-- Whether the core runs (R32). -/
inductive Status where
  | running
  | halted (record : FaultRecord)
  deriving DecidableEq, Repr

/-- Whether the one-time setup is still open (R33). -/
inductive Phase where
  | setup
  | run
  deriving DecidableEq, Repr

/-- The state aggregate (R20), with the manual's names. `rnd`, `draws` and `params` are the model's
own: see their comments. -/
structure State where
  /-- General registers V0 to VF (R21); VF is also the flag register (R22). -/
  V : Vector Byte 16
  /-- The index register (R23). -/
  I : Word
  /-- The program counter (R24). -/
  pc : Word
  /-- The return stack (R25). -/
  stack : Vector Word 16
  /-- The stack pointer, 0 to 16: the next free slot (R26). -/
  sp : Fin 17
  /-- The delay timer (R27). -/
  DT : Byte
  /-- The sound timer (R28). -/
  ST : Byte
  /-- The key latch (R29); `true` is held. -/
  keypad : Vector Bool 16
  /-- The framebuffer (R30). -/
  video : Framebuffer
  /-- Memory (R31). -/
  mem : Memory
  /-- R32. -/
  status : Status
  /-- R33. -/
  phase : Phase
  /-- R33. -/
  fontLoaded : Bool
  /-- R33. -/
  romLoaded : Bool
  /-- MODEL'S OWN (log 2): the argument of step(rnd) while that step runs (R81, R229); zero between
  operations. -/
  rnd : Byte
  /-- MODEL'S OWN (log 2): how many steps have begun; it numbers the free random bytes. -/
  draws : Nat
  /-- MODEL'S OWN (log 1): the open parameters of R7, changed by no operation. -/
  params : Config.Params
  deriving DecidableEq, Repr

/-- Why a step stops. -/
inductive Fault where
  /-- Raised by a step on a core whose status is `Halted(record)`, and by nothing else: the step
  changes no state and returns the stored record (30_encoding.md R84, 60_exceptions.md R216).
  The record itself was stored by the step or load that met the fatal condition. Safe: the core
  makes no further progress either. -/
  | halted (record : FaultRecord)
  deriving DecidableEq, Repr

/-- Why an operation has no meaning. -/
inductive Refusal where
  /-- An instruction that has no meaning yet; raised only by an arm of `exec`. Safe. No arm does. -/
  | notModelled (mnemonic : String)
  /-- Raised by `loadFont` outside its admission (60_exceptions.md R220, 70_reset_and_hazards.md
  R255: "a model gives it no step"). Safe. -/
  | fontLoadNotAdmitted
  /-- Raised by `loadRom` outside its admission (R220, R255). Safe. -/
  | romLoadNotAdmitted
  deriving DecidableEq, Repr

/-- The state after creation for given parameters (10_state.md R38, 70_reset_and_hazards.md R250):
all zero, `pc = 0x200`, running, setup open. -/
def State.resetWith (params : Config.Params) : State where
  V := Vector.replicate 16 0
  I := 0x0000
  pc := 0x0200
  stack := Vector.replicate 16 0x0000
  sp := 0
  DT := 0
  ST := 0
  keypad := Vector.replicate 16 false
  video := Framebuffer.off
  mem := []
  status := .running
  phase := .setup
  fontLoaded := false
  romLoaded := false
  rnd := 0
  draws := 0
  params := params

/-- The machine right after reset, with the spec's default parameters (R7, log 1). -/
def State.reset : State := State.resetWith defaultParams

end Sys2Proof.Machine
end

