-- ==== Sys2Proof/Machine/Ops.lean ====
section
/-! DEFINITION. The named operations over registers, stack, memory, timers and pc (00_scope.md R10),
fault entry as ONE shared operation (60_exceptions.md R213 to R215), and the fetch
(30_encoding.md R82, R83). -/

namespace Sys2Proof.Machine

/-- What an instruction's meaning or a step answers. -/
abbrev Result := Host.Outcome State Fault Refusal

/-! ### Registers -/

/-- `FLAG_REG`: VF (00_scope.md R6). -/
def VF : Reg := 0xF

/-- `V[r]`. -/
def State.reg (s : State) (r : Reg) : Byte := s.V[r.val]

/-- `V[r] <- v`. -/
def State.setReg (s : State) (r : Reg) (v : Byte) : State := { s with V := s.V.set r.val v }

/-- `I <- v`. -/
def State.setI (s : State) (v : Word) : State := { s with I := v }

/-- `pc <- target`. -/
def State.setPc (s : State) (target : Word) : State := { s with pc := target }

/-- `DT <- v`. -/
def State.setDT (s : State) (v : Byte) : State := { s with DT := v }

/-- `ST <- v`. -/
def State.setST (s : State) (v : Byte) : State := { s with ST := v }

/-- The framebuffer replaced. -/
def State.setVideo (s : State) (v : Framebuffer) : State := { s with video := v }

/-! ### Program counter -/

/-- The advance before the handler, `pc <- (pc + 2) mod 65536` (30_encoding.md R83). -/
def State.advancePc (s : State) : State := { s with pc := s.pc + 2 }

/-- A taken skip adds 2 more; one not taken leaves pc (41_control_flow.md R108). -/
def State.skipIf (s : State) (taken : Bool) : State := if taken then s.advancePc else s

/-- `pc <- (pc - 2) mod 65536`: the instruction runs again at the next step
(45_timers_keys.md R195). -/
def State.rewindPc (s : State) : State := { s with pc := s.pc - 2 }

/-! ### Stack -/

/-- `stack[sp] <- v; sp <- sp + 1`; none when the stack is full (41_control_flow.md R101). -/
def State.push (s : State) (v : Word) : Option State :=
  if h : s.sp.val < 16 then
    some { s with stack := s.stack.set s.sp.val v, sp := ⟨s.sp.val + 1, by omega⟩ }
  else none

/-- `sp <- sp - 1`, and the entry at the decremented sp; none when the stack is empty (R102).
The entry is not cleared (10_state.md R25). -/
def State.pop (s : State) : Option (Word × State) :=
  if h : s.sp.val = 0 then none
  else some (s.stack[s.sp.val - 1], { s with sp := ⟨s.sp.val - 1, by omega⟩ })

/-! ### Memory -/

/-- The byte at an address in range. -/
def State.readByte (s : State) (a : Nat) : Byte := s.mem.read a

/-- The `n` bytes from `a` on, in range. -/
def State.readBytes (s : State) (a n : Nat) : List Byte := s.mem.readBytes a n

/-- Bytes stored at `a`, `a + 1`, and so on, in range. -/
def State.storeBytes (s : State) (a : Nat) (vs : List Byte) : State :=
  { s with mem := s.mem.writeBytes a vs }

/-- The range check of a whole access of `n` bytes from `a` (20_memory.md R53, R54: addresses are
natural numbers and do not wrap): the lowest address above 0xFFF that it would touch, if any
(60_exceptions.md R210, code 4). -/
def outOfRange (a n : Nat) : Option Nat :=
  if n ≠ 0 ∧ a + n > memSize then some (max a memSize) else none

/-! ### Fault entry (60_exceptions.md R213)

There is no return from a fault: only reset leaves `Halted` (R216; Machine/HostOps.lean). -/

/-- The numeric code of a kind (R210). -/
def FaultKind.code : FaultKind → Nat
  | .stackOverflow => 1
  | .stackUnderflow => 2
  | .romTooLarge => 3
  | .memoryOutOfRange => 4
  | .keyIndexOutOfRange => 5
  | .reservedFetch => 6

/-- The numeric code of a record (R214). -/
def FaultRecord.code (r : FaultRecord) : Nat := r.kind.code

/-- `raise Fatal`: the operation stops and `status <- Halted(record)`; nothing else changes. -/
def State.raiseFatal (s : State) (record : FaultRecord) : State :=
  { s with status := .halted record }

/-- The address the running instruction was fetched from: its handler sees `pc = ia + 2`
(00_scope.md R12; DEDUCED, log 3). -/
def State.instrAddr (s : State) : Word := s.pc - 2

/-- The record of a fatal condition an instruction itself raises (R214): it has the instruction's
address and word. -/
def State.execFaultRecord (s : State) (i : Instr) (kind : FaultKind) (detail : FaultDetail) :
    FaultRecord :=
  { kind := kind, ia := some s.instrAddr, w := some (encode i), detail := detail }

/-- An instruction meets a fatal condition before it has written anything (R215). -/
def State.execFault (s : State) (i : Instr) (kind : FaultKind) (detail : FaultDetail) : Result :=
  .next (s.raiseFatal (s.execFaultRecord i kind detail))

/-- An instruction that accesses the `n` bytes from `I` on: every address is checked before any
effect (20_memory.md R53, 60_exceptions.md R215), and then the effect is `t`. -/
def State.withRange (s : State) (i : Instr) (n : Nat) (t : State) : Result :=
  match outOfRange s.I.toNat n with
  | some a => s.execFault i .memoryOutOfRange (.addr a)
  | none => .next t

/-! ### Fetch (30_encoding.md R82) -/

/-- `PROGRAM_BASE` (00_scope.md R6): code lies at 0x200 and above. -/
def programBase : Nat := 0x200

/-- The record of the fetch check that fails at `pc`, if one does, in the order of R82. -/
def State.fetchFault (s : State) : Option FaultRecord :=
  if s.pc.toNat < programBase ∧ s.params.faultOnReservedFetch = true then
    some { kind := .reservedFetch, ia := some s.pc, w := none, detail := .none }
  else
    match outOfRange s.pc.toNat 2 with
    | some a => some { kind := .memoryOutOfRange, ia := some s.pc, w := none, detail := .addr a }
    | none => none

/-- The word at `pc`, high byte first (20_memory.md R55); a fetch sees the current contents of memory
(R61). -/
def State.fetchWord (s : State) : Word :=
  wordOfBytes (s.readByte s.pc.toNat) (s.readByte (s.pc.toNat + 1))

/-- A word stored where the next step fetches, high byte first. -/
def State.placeWord (s : State) (w : Word) : State :=
  s.storeBytes s.pc.toNat [highByte w, lowByte w]

/-! ### Timers (60_exceptions.md R221) -/

/-- One timer down by at most 1, floored at 0. -/
def countDown (v : Byte) : Byte := if v.toNat > 0 then v - 1 else v

/-- The tick: on a halted core nothing, else both timers count down. -/
def State.tick (s : State) : State :=
  match s.status with
  | .halted _ => s
  | .running => { s with DT := countDown s.DT, ST := countDown s.ST }

end Sys2Proof.Machine
end

