-- ==== Sys2Proof/Machine/Flags.lean ====
section
/-! DEFINITION. The 8-bit arithmetic with its flags (42_alu.md R120, R127 to R131): each is computed
exactly on natural numbers and narrowed at the end; and the two orders in which result and flag are
written (R133). The flag of DRW is computed by the compositor (Machine/Framebuffer.lean). -/

namespace Sys2Proof.Machine

/-- 1 for true, 0 for false: what VF is set to. -/
def flagByte (b : Bool) : Byte := if b then 1 else 0

/-- `(a + b) mod 256`. -/
def sumByte (a b : Byte) : Byte := BitVec.ofNat 8 (a.toNat + b.toNat)

/-- Carry of `a + b`: the unreduced sum exceeds 255 (R127). -/
def carryOut (a b : Byte) : Bool := decide (a.toNat + b.toNat > 255)

/-- `(p - q) mod 256`, as `(p + 256 - q) mod 256` (R120). -/
def diffByte (p q : Byte) : Byte := BitVec.ofNat 8 (p.toNat + 256 - q.toNat)

/-- No borrow of `p - q`, strict: `p > q` (R128, R130). -/
def noBorrow (p q : Byte) : Bool := decide (p.toNat > q.toNat)

/-- `a >> 1` (R129). -/
def halfByte (a : Byte) : Byte := BitVec.ofNat 8 (a.toNat / 2)

/-- The bit SHR shifts out, bit 0 (R129). -/
def lowBitOut (a : Byte) : Bool := decide (a.toNat % 2 = 1)

/-- `(a * 2) mod 256` (R131). -/
def doubleByte (a : Byte) : Byte := BitVec.ofNat 8 (a.toNat * 2)

/-- The bit SHL shifts out, bit 7 (R131). -/
def highBitOut (a : Byte) : Bool := decide (a.toNat / 128 = 1)

/-- `V[x] <- r; V[0xF] <- f`: the order ADD Vx,Vy lists its writes in, the same under both settings of
`VF_WRITE_ORDER` (R133). -/
def State.resultThenFlag (s : State) (x : Reg) (r : Byte) (f : Bool) : State :=
  (s.setReg x r).setReg VF (flagByte f)

/-- The order SUB, SHR, SUBN and SHL list their writes in, `V[0xF] <- f; V[x] <- r`, unless
`VF_WRITE_ORDER` says the flag is written last (R133). -/
def State.flagThenResult (s : State) (x : Reg) (r : Byte) (f : Bool) : State :=
  match s.params.vfWriteOrder with
  | .docOrder => (s.setReg VF (flagByte f)).setReg x r
  | .flagLast => s.resultThenFlag x r f

end Sys2Proof.Machine
end

