-- ==== Sys2Proof/Machine/Operands.lean ====
section
/-! DEFINITION. Operand forms (30_encoding.md R72, 43_index_memory.md R156): registers by number,
`kk` as it is, `nnn` zero-extended, the glyph address of LD F, the block of registers V0 to Vx, the
key an 8-bit value names, and the decimal digits of LD B. -/

namespace Sys2Proof.Machine

/-- `zext_16(nnn)` (R72). -/
def addrOf (nnn : Addr) : Word := BitVec.ofNat 16 nnn.toNat

/-- `zext_16(nnn) + V0`, the target of JP V0,addr (41_control_flow.md R107). -/
def indexedTarget (nnn : Addr) (v0 : Byte) : Word := BitVec.ofNat 16 (nnn.toNat + v0.toNat)

/-- `(I + a) mod 65536` (43_index_memory.md R151). -/
def indexPlus (i : Word) (a : Byte) : Word := BitVec.ofNat 16 (i.toNat + a.toNat)

/-- `0x050 + 5 * (a AND 0x0F)`, the font glyph of a digit (R152). -/
def glyphAddr (a : Byte) : Word := BitVec.ofNat 16 (0x050 + 5 * (a.toNat % 16))

/-- Hundreds, tens and ones of a byte (R153). -/
def decimalDigits (a : Byte) : List Byte :=
  [BitVec.ofNat 8 (a.toNat / 100), BitVec.ofNat 8 (a.toNat / 10 % 10), BitVec.ofNat 8 (a.toNat % 10)]

/-- How many registers V0 to Vx inclusive are (R154: "loop bound is inclusive of Vx"). -/
def blockLength (x : Reg) : Nat := x.val + 1

/-- The values of V0 to Vx in order (R154). -/
def State.regBlock (s : State) (x : Reg) : List Byte := s.V.toList.take (blockLength x)

/-- `V[i], V[i+1], ... <-` the given bytes; there is no register above VF to write (R155). -/
def writeRegs : Vector Byte 16 → Nat → List Byte → Vector Byte 16
  | V, _, [] => V
  | V, i, b :: bs => if h : i < 16 then writeRegs (V.set i b) (i + 1) bs else V

/-- V0 to Vx loaded from the bytes at `a` (R155). -/
def State.loadRegBlock (s : State) (x : Reg) (a : Nat) : State :=
  { s with V := writeRegs s.V 0 (s.readBytes a (blockLength x)) }

/-- `keypad[k]` for an 8-bit key index; none above 15, where the latch has no key
(45_timers_keys.md R196). -/
def State.keyHeld (s : State) (k : Byte) : Option Bool :=
  if h : k.toNat < 16 then some s.keypad[k.toNat] else none

/-- The lowest-indexed held key (R195). -/
def State.lowestHeldKey (s : State) : Option Reg :=
  (List.finRange 16).find? fun k => s.keypad[k.val]

end Sys2Proof.Machine
end

