-- ==== Sys2Proof/Machine/Alu.lean ====
section
/-! DEFINITION. Register arithmetic, logic and random (42_alu.md R120 to R133). None of these can
fault; operands are read before any write (00_scope.md R11). -/

namespace Sys2Proof.Machine

/-- LD Vx,kk (R121). -/
def execLdImm (x : Reg) (kk : Byte) (s : State) : Result := .next (s.setReg x kk)

/-- ADD Vx,kk (R122): no flag. -/
def execAddImm (x : Reg) (kk : Byte) (s : State) : Result :=
  .next (s.setReg x (sumByte (s.reg x) kk))

/-- LD Vx,Vy (R123). -/
def execLdReg (x y : Reg) (s : State) : Result := .next (s.setReg x (s.reg y))

/-- OR Vx,Vy (R124): VF is not reset. -/
def execOrReg (x y : Reg) (s : State) : Result := .next (s.setReg x (s.reg x ||| s.reg y))

/-- AND Vx,Vy (R125). -/
def execAndReg (x y : Reg) (s : State) : Result := .next (s.setReg x (s.reg x &&& s.reg y))

/-- XOR Vx,Vy (R126). -/
def execXorReg (x y : Reg) (s : State) : Result := .next (s.setReg x (s.reg x ^^^ s.reg y))

/-- ADD Vx,Vy (R127): VF is the carry. -/
def execAddReg (x y : Reg) (s : State) : Result :=
  .next (s.resultThenFlag x (sumByte (s.reg x) (s.reg y)) (carryOut (s.reg x) (s.reg y)))

/-- SUB Vx,Vy (R128): VF is 1 when Vx > Vy. -/
def execSub (x y : Reg) (s : State) : Result :=
  .next (s.flagThenResult x (diffByte (s.reg x) (s.reg y)) (noBorrow (s.reg x) (s.reg y)))

/-- SHR Vx (R129): Vy is not read (30_encoding.md R78). -/
def execShr (x : Reg) (_ign : Nibble) (s : State) : Result :=
  .next (s.flagThenResult x (halfByte (s.reg x)) (lowBitOut (s.reg x)))

/-- SUBN Vx,Vy (R130): VF is 1 when Vy > Vx. -/
def execSubn (x y : Reg) (s : State) : Result :=
  .next (s.flagThenResult x (diffByte (s.reg y) (s.reg x)) (noBorrow (s.reg y) (s.reg x)))

/-- SHL Vx (R131). -/
def execShl (x : Reg) (_ign : Nibble) (s : State) : Result :=
  .next (s.flagThenResult x (doubleByte (s.reg x)) (highBitOut (s.reg x)))

/-- RND Vx,kk (R132): the step's random byte masked by `kk`. -/
def execRnd (x : Reg) (kk : Byte) (s : State) : Result := .next (s.setReg x (s.rnd &&& kk))

end Sys2Proof.Machine
end

