-- ==== Sys2Proof/Machine/ControlFlow.lean ====
section
/-! DEFINITION. Control transfer and conditional skips (41_control_flow.md R100 to R109). Each meaning
runs on the state after the pc advance: on entry `pc = ia + 2`. -/

namespace Sys2Proof.Machine

/-- JP addr (R100). -/
def execJp (nnn : Addr) (s : State) : Result := .next (s.setPc (addrOf nnn))

/-- CALL addr (R101): the pushed value is the advanced pc; fatal StackOverflow when sp = 16. -/
def execCall (nnn : Addr) (s : State) : Result :=
  match s.push s.pc with
  | some t => .next (t.setPc (addrOf nnn))
  | none => s.execFault (.call nnn) .stackOverflow (.sp s.sp.val)

/-- RET (R102): fatal StackUnderflow when sp = 0. -/
def execRet (ign : Nibble) (s : State) : Result :=
  match s.pop with
  | some (target, t) => .next (t.setPc target)
  | none => s.execFault (.ret ign) .stackUnderflow (.sp s.sp.val)

/-- SE Vx,kk (R103). -/
def execSeImm (x : Reg) (kk : Byte) (s : State) : Result := .next (s.skipIf (decide (s.reg x = kk)))

/-- SNE Vx,kk (R104). -/
def execSneImm (x : Reg) (kk : Byte) (s : State) : Result := .next (s.skipIf (decide (s.reg x ≠ kk)))

/-- SE Vx,Vy (R105); `ign` is not read (30_encoding.md R78). -/
def execSeReg (x y : Reg) (_ign : Nibble) (s : State) : Result :=
  .next (s.skipIf (decide (s.reg x = s.reg y)))

/-- SNE Vx,Vy (R106). -/
def execSneReg (x y : Reg) (_ign : Nibble) (s : State) : Result :=
  .next (s.skipIf (decide (s.reg x ≠ s.reg y)))

/-- JP V0,addr (R107). -/
def execJpV0 (nnn : Addr) (s : State) : Result := .next (s.setPc (indexedTarget nnn (s.reg 0)))

end Sys2Proof.Machine
end

