-- ==== Sys2Proof/Machine/Display.lean ====
section
/-! DEFINITION. CLS and DRW (44_display.md R170 to R175), the only writers of the framebuffer. -/

namespace Sys2Proof.Machine

/-- CLS (R172): every pixel off; VF is not written. -/
def execCls (_ign : Nibble) (s : State) : Result := .next (s.setVideo Framebuffer.off)

/-- The framebuffer and the collision flag after drawing the `n` bytes at `I` as a sprite at
(Vx mod 64, Vy mod 32) (R173). -/
def State.drawn (s : State) (x y : Reg) (n : Nat) : Framebuffer × Bool :=
  drawRows (spriteColumn (s.reg x)) (spriteRow (s.reg y)) (s.readBytes s.I.toNat n) (s.video, false)

/-- DRW Vx,Vy,n (R173): all `n` row addresses are checked, clipped or not; VF is written last. -/
def execDrw (x y : Reg) (n : Nat) (s : State) : Result :=
  s.withRange (.drw x y n) n
    ((s.setVideo (s.drawn x y n).1).setReg VF (flagByte (s.drawn x y n).2))

end Sys2Proof.Machine
end

