-- ==== Sys2Proof/Machine/IndexMemory.lean ====
section
/-! DEFINITION. The index register and memory transfers (43_index_memory.md R150 to R156). `I` is
never changed by a transfer. -/

namespace Sys2Proof.Machine

/-- LD I,addr (R150). -/
def execLdI (nnn : Addr) (s : State) : Result := .next (s.setI (addrOf nnn))

/-- ADD I,Vx (R151): no flag, no fault. -/
def execAddI (x : Reg) (s : State) : Result := .next (s.setI (indexPlus s.I (s.reg x)))

/-- LD F,Vx (R152): Vx above 15 is masked to 4 bits. -/
def execLdF (x : Reg) (s : State) : Result := .next (s.setI (glyphAddr (s.reg x)))

/-- LD B,Vx (R153): three digits at I, I+1, I+2. -/
def execLdB (x : Reg) (s : State) : Result :=
  s.withRange (.ldB x) 3 (s.storeBytes s.I.toNat (decimalDigits (s.reg x)))

/-- LD [I],Vx (R154): V0 to Vx stored from I on. -/
def execStoreRegs (x : Reg) (s : State) : Result :=
  s.withRange (.storeRegs x) (blockLength x) (s.storeBytes s.I.toNat (s.regBlock x))

/-- LD Vx,[I] (R155): V0 to Vx loaded from I on. -/
def execLoadRegs (x : Reg) (s : State) : Result :=
  s.withRange (.loadRegs x) (blockLength x) (s.loadRegBlock x s.I.toNat)

end Sys2Proof.Machine
end

