-- ==== Sys2Proof/Machine/TimersKeys.lean ====
section
/-! DEFINITION. Timer access and key input (45_timers_keys.md R190 to R196). -/

namespace Sys2Proof.Machine

/-- LD Vx,DT (R190). -/
def execLdVxDT (x : Reg) (s : State) : Result := .next (s.setReg x s.DT)

/-- LD DT,Vx (R191). -/
def execLdDTVx (x : Reg) (s : State) : Result := .next (s.setDT (s.reg x))

/-- LD ST,Vx (R192). -/
def execLdSTVx (x : Reg) (s : State) : Result := .next (s.setST (s.reg x))

/-- SKP Vx (R193): fatal KeyIndexOutOfRange when Vx > 15 (R196). -/
def execSkp (x : Reg) (s : State) : Result :=
  match s.keyHeld (s.reg x) with
  | some held => .next (s.skipIf held)
  | none => s.execFault (.skp x) .keyIndexOutOfRange (.key (s.reg x))

/-- SKNP Vx (R194). -/
def execSknp (x : Reg) (s : State) : Result :=
  match s.keyHeld (s.reg x) with
  | some held => .next (s.skipIf (!held))
  | none => s.execFault (.sknp x) .keyIndexOutOfRange (.key (s.reg x))

/-- LD Vx,K (R195): the lowest held key, or back to this instruction when none is held. -/
def execLdVxK (x : Reg) (s : State) : Result :=
  match s.lowestHeldKey with
  | some k => .next (s.setReg x (BitVec.ofNat 8 k.val))
  | none => .next s.rewindPc

end Sys2Proof.Machine
end

