-- ==== Sys2Proof/Machine/Cycle.lean ====
section
/-! DEFINITION. The instruction cycle (30_encoding.md R81 to R85): what one step does, given its
random byte. -/

namespace Sys2Proof.Machine

/-- A step begins (R81): setup closes, the random byte is the step's, and the next step will draw
another (log 2). -/
def State.beginStep (s : State) (rnd : Byte) : State :=
  { s with phase := .run, rnd := rnd, draws := s.draws + 1 }

/-- A step ends: its random byte is gone, and under `TICK_ON_STEP` a step that did not fault ticks
(R81; the tick itself does nothing on a halted core, 60_exceptions.md R221). -/
def State.endStep (s : State) : State :=
  if s.params.tickOnStep then { s with rnd := 0 }.tick else { s with rnd := 0 }

/-- The word at `pc` is run, after the advance: the instruction it decodes to, or nothing more for a
no-op word (30_encoding.md R76). -/
def State.runWord (s : State) (w : Word) : Result :=
  match decodeWord w with
  | some i => exec i s.advancePc
  | none => .next s.advancePc

/-- Fetch checks, fetch, advance, decode and handler (R81, R82). A fetch fault leaves pc at `ia`. -/
def State.fetchAndRun (s : State) : Result :=
  match s.fetchFault with
  | some record => .next (s.raiseFatal record)
  | none => s.runWord s.fetchWord

/-- The end of the step on its outcome. -/
def endOutcome : Result → Result
  | .next s => .next s.endStep
  | .fault r => .fault r
  | .refused r => .refused r

/-- `step(rnd)` (R81): one instruction. On a halted core it changes nothing and answers the stored
record (R84). -/
def cycle (rnd : Byte) (s : State) : Result :=
  match s.status with
  | .halted record => .fault (.halted record)
  | .running => endOutcome (s.beginStep rnd).fetchAndRun

/-- The two outputs of a step (R85). -/
structure StepOutput where
  /-- The fault record, if the core is halted after the step. -/
  fault : Option FaultRecord
  /-- The step executed CLS or DRW (D16, log 19). -/
  videoWritten : Bool
  deriving DecidableEq, Repr

/-- Whether an instruction counts as a framebuffer writer (R85: whatever pixels changed). -/
def writesVideo : Instr → Bool
  | .cls _ => true
  | .ret _ => false
  | .jp _ => false
  | .call _ => false
  | .seImm _ _ => false
  | .sneImm _ _ => false
  | .seReg _ _ _ => false
  | .ldImm _ _ => false
  | .addImm _ _ => false
  | .ldReg _ _ => false
  | .orReg _ _ => false
  | .andReg _ _ => false
  | .xorReg _ _ => false
  | .addReg _ _ => false
  | .sub _ _ => false
  | .shr _ _ => false
  | .subn _ _ => false
  | .shl _ _ => false
  | .sneReg _ _ _ => false
  | .ldI _ => false
  | .jpV0 _ => false
  | .rnd _ _ => false
  | .drw _ _ _ => true
  | .skp _ => false
  | .sknp _ => false
  | .ldVxDT _ => false
  | .ldVxK _ => false
  | .ldDTVx _ => false
  | .ldSTVx _ => false
  | .addI _ => false
  | .ldF _ => false
  | .ldB _ => false
  | .storeRegs _ => false
  | .loadRegs _ => false

/-- Whether the word at `pc` is CLS or DRW. -/
def State.fetchesVideoWriter (s : State) : Bool :=
  match decodeWord s.fetchWord with
  | some i => writesVideo i
  | none => false

/-- What `step(rnd)` returns to the host from a state (R81, R84, R85); nothing where the model gives
the step no meaning. -/
def cycleOutput (rnd : Byte) (s : State) : Option StepOutput :=
  match cycle rnd s with
  | .fault (.halted record) => some { fault := some record, videoWritten := false }
  | .next t =>
    match t.status with
    | .halted record => some { fault := some record, videoWritten := false }
    | .running => some { fault := none, videoWritten := s.fetchesVideoWriter }
  | .refused _ => none

end Sys2Proof.Machine
end

