-- ==== Sys2Proof/Machine/Step.lean ====
section
/-! DEFINITION. The step of the machine, and how a word is placed where it fetches next. -/

namespace Sys2Proof.Machine

/-- One step of the core, `step(rnd)` of 30_encoding.md R81, its random byte a free value
(60_exceptions.md R229, log 2). -/
def step (s : State) : Host.Outcome State Fault Refusal := cycle (Config.randomByte s.draws) s

/-- `s` with the instruction whose bits are `w` (numbered as the opcode table numbers them) stored at
`pc`, in place of a ROM that the host loaded there (log 11). -/
def State.withFetchWord (s : State) (nbits w : Nat) : State := s.placeWord (tableWord nbits w)

end Sys2Proof.Machine
end

