-- ==== Sys2Proof/Machine/OpcodeMap.lean ====
section
/-! DEFINITION. The opcode map of 30_encoding.md R75 as data: one row per instruction, in its order.
The decoder does not use it; statements hold the decoder and the encoder against it. The numbers are
the spec's general knowledge G1 (PRESUMED, log 5). -/

namespace Sys2Proof.Machine

/-- A row: a word `w` is of this instruction when `w &&& mask = code` (the table's `match`). -/
structure OpcodeRow where
  code : Word
  mask : Word
  deriving DecidableEq, Repr

/-- The row selects a word. -/
def OpcodeRow.selects (r : OpcodeRow) (w : Word) : Bool := decide (w &&& r.mask = r.code)

/-- The 34 rows of R75. -/
def opcodeRows : List OpcodeRow := [
  ⟨0x00E0, 0xF0FF⟩,  -- CLS
  ⟨0x00EE, 0xF0FF⟩,  -- RET
  ⟨0x1000, 0xF000⟩,  -- JP addr
  ⟨0x2000, 0xF000⟩,  -- CALL addr
  ⟨0x3000, 0xF000⟩,  -- SE Vx,kk
  ⟨0x4000, 0xF000⟩,  -- SNE Vx,kk
  ⟨0x5000, 0xF000⟩,  -- SE Vx,Vy
  ⟨0x6000, 0xF000⟩,  -- LD Vx,kk
  ⟨0x7000, 0xF000⟩,  -- ADD Vx,kk
  ⟨0x8000, 0xF00F⟩,  -- LD Vx,Vy
  ⟨0x8001, 0xF00F⟩,  -- OR Vx,Vy
  ⟨0x8002, 0xF00F⟩,  -- AND Vx,Vy
  ⟨0x8003, 0xF00F⟩,  -- XOR Vx,Vy
  ⟨0x8004, 0xF00F⟩,  -- ADD Vx,Vy
  ⟨0x8005, 0xF00F⟩,  -- SUB Vx,Vy
  ⟨0x8006, 0xF00F⟩,  -- SHR Vx
  ⟨0x8007, 0xF00F⟩,  -- SUBN Vx,Vy
  ⟨0x800E, 0xF00F⟩,  -- SHL Vx
  ⟨0x9000, 0xF000⟩,  -- SNE Vx,Vy
  ⟨0xA000, 0xF000⟩,  -- LD I,addr
  ⟨0xB000, 0xF000⟩,  -- JP V0,addr
  ⟨0xC000, 0xF000⟩,  -- RND Vx,kk
  ⟨0xD000, 0xF000⟩,  -- DRW Vx,Vy,n
  ⟨0xE09E, 0xF0FF⟩,  -- SKP Vx
  ⟨0xE0A1, 0xF0FF⟩,  -- SKNP Vx
  ⟨0xF007, 0xF0FF⟩,  -- LD Vx,DT
  ⟨0xF00A, 0xF0FF⟩,  -- LD Vx,K
  ⟨0xF015, 0xF0FF⟩,  -- LD DT,Vx
  ⟨0xF018, 0xF0FF⟩,  -- LD ST,Vx
  ⟨0xF01E, 0xF0FF⟩,  -- ADD I,Vx
  ⟨0xF029, 0xF0FF⟩,  -- LD F,Vx
  ⟨0xF033, 0xF0FF⟩,  -- LD B,Vx
  ⟨0xF055, 0xF0FF⟩,  -- LD [I],Vx
  ⟨0xF065, 0xF0FF⟩]  -- LD Vx,[I]

/-- The row an instruction is an instance of. -/
def rowOf : Instr → OpcodeRow
  | .cls _ => ⟨0x00E0, 0xF0FF⟩
  | .ret _ => ⟨0x00EE, 0xF0FF⟩
  | .jp _ => ⟨0x1000, 0xF000⟩
  | .call _ => ⟨0x2000, 0xF000⟩
  | .seImm _ _ => ⟨0x3000, 0xF000⟩
  | .sneImm _ _ => ⟨0x4000, 0xF000⟩
  | .seReg _ _ _ => ⟨0x5000, 0xF000⟩
  | .ldImm _ _ => ⟨0x6000, 0xF000⟩
  | .addImm _ _ => ⟨0x7000, 0xF000⟩
  | .ldReg _ _ => ⟨0x8000, 0xF00F⟩
  | .orReg _ _ => ⟨0x8001, 0xF00F⟩
  | .andReg _ _ => ⟨0x8002, 0xF00F⟩
  | .xorReg _ _ => ⟨0x8003, 0xF00F⟩
  | .addReg _ _ => ⟨0x8004, 0xF00F⟩
  | .sub _ _ => ⟨0x8005, 0xF00F⟩
  | .shr _ _ => ⟨0x8006, 0xF00F⟩
  | .subn _ _ => ⟨0x8007, 0xF00F⟩
  | .shl _ _ => ⟨0x800E, 0xF00F⟩
  | .sneReg _ _ _ => ⟨0x9000, 0xF000⟩
  | .ldI _ => ⟨0xA000, 0xF000⟩
  | .jpV0 _ => ⟨0xB000, 0xF000⟩
  | .rnd _ _ => ⟨0xC000, 0xF000⟩
  | .drw _ _ _ => ⟨0xD000, 0xF000⟩
  | .skp _ => ⟨0xE09E, 0xF0FF⟩
  | .sknp _ => ⟨0xE0A1, 0xF0FF⟩
  | .ldVxDT _ => ⟨0xF007, 0xF0FF⟩
  | .ldVxK _ => ⟨0xF00A, 0xF0FF⟩
  | .ldDTVx _ => ⟨0xF015, 0xF0FF⟩
  | .ldSTVx _ => ⟨0xF018, 0xF0FF⟩
  | .addI _ => ⟨0xF01E, 0xF0FF⟩
  | .ldF _ => ⟨0xF029, 0xF0FF⟩
  | .ldB _ => ⟨0xF033, 0xF0FF⟩
  | .storeRegs _ => ⟨0xF055, 0xF0FF⟩
  | .loadRegs _ => ⟨0xF065, 0xF0FF⟩

end Sys2Proof.Machine
end

