-- ==== Sys2Proof/Machine/HostOps.lean ====
section
/-! DEFINITION. The host-facing operations beside the step (60_exceptions.md R220), one function
each. The host calls them one at a time; each is one atomic transition (00_scope.md R5, log 11). -/

namespace Sys2Proof.Machine

/-- `reset()` (70_reset_and_hazards.md R250): the only way out of `Halted` (R216). The parameters are
not state and stay; so does the counter of free values, so that no random byte is drawn twice. -/
def opReset (s : State) : State := { State.resetWith s.params with draws := s.draws }

/-- `FONT_BASE` (00_scope.md R6). -/
def fontBase : Nat := 0x050

/-- `ROM_MAX` (R6): 0xFFF - 0x200 + 1 bytes. -/
def romMax : Nat := 0xE00

/-- The setup is still open on a running core (R220). -/
def State.setupOpen (s : State) : Bool := decide (s.status = .running) && decide (s.phase = .setup)

/-- `load_font()` (R251, R255). -/
def loadFont (s : State) : Result :=
  if s.setupOpen && !s.fontLoaded then
    .next { s.storeBytes fontBase s.params.font.toList with fontLoaded := true }
  else .refused .fontLoadNotAdmitted

/-- The record of an oversize ROM (R254): only its length. -/
def romTooLargeRecord (len : Nat) : FaultRecord :=
  { kind := .romTooLarge, ia := none, w := none, detail := .len len }

/-- `load_rom(bytes)` (R253 to R255): an oversize ROM is fatal before any byte is written. -/
def loadRom (bytes : List Byte) (s : State) : Result :=
  if s.setupOpen && !s.romLoaded then
    if bytes.length > romMax then .next (s.raiseFatal (romTooLargeRecord bytes.length))
    else .next { s.storeBytes programBase bytes with romLoaded := true }
  else .refused .romLoadNotAdmitted

/-- `set_keys(k)` (R223): admitted always; on a halted core it still lands in the latch (R216,
log 13). -/
def setKeys (k : Vector Bool 16) (s : State) : State := { s with keypad := k }

/-- `tick_timers()` (R221). -/
def tickTimers (s : State) : State := s.tick

/-- The tone-request signal, `ST != 0` (R227). -/
def State.soundActive (s : State) : Bool := decide (s.ST ≠ 0)

/-- The operations of R220 that can change the state. -/
inductive HostOp where
  | reset
  | loadFont
  | loadRom (bytes : List Byte)
  | setKeys (k : Vector Bool 16)
  | step (rnd : Byte)
  | tickTimers
  deriving DecidableEq, Repr

/-- One operation of the host. -/
def HostOp.apply : HostOp → State → Result
  | .reset, s => .next (opReset s)
  | .loadFont, s => Machine.loadFont s
  | .loadRom bytes, s => Machine.loadRom bytes s
  | .setKeys k, s => .next (Machine.setKeys k s)
  | .step rnd, s => cycle rnd s
  | .tickTimers, s => .next (Machine.tickTimers s)

/-- A sequence of the host's operations, stopping at the first that does not answer a next state. -/
def runOps : List HostOp → State → Result
  | [], s => .next s
  | op :: ops, s =>
    match op.apply s with
    | .next t => runOps ops t
    | .fault r => .fault r
    | .refused r => .refused r

end Sys2Proof.Machine
end

