-- ==== Sys2Proof/Safety.lean ====
section
/-! DEFINITION. The terms claims are stated in: when a run ends well, the invariant of the state
(10_state.md R37 and what R24, R83 and R107 say of pc), and what each instruction may change (the
access matrix, 10_state.md R39). -/

namespace Sys2Proof.Machine

/-! ### Safe runs -/

/-- A successful end of a run: a state in which the core still runs. A halted state "is never a
successful end of a run" (60_exceptions.md R216). -/
def endsSafely : Result → Bool
  | .next s => decide (s.status = .running)
  | .fault _ => false
  | .refused _ => false

/-- `n` steps from `s` all complete and leave the core running. -/
def RunsSafely (n : Nat) (s : State) : Prop := endsSafely (Sys2Proof.core.run n s) = true

/-! ### The invariant -/

/-- What every operation keeps (R37; the ranges of `V`, `DT`, `ST`, `sp` and the pixels hold by their
types): memory is canonical and inside the address space; pc is at most 0x10FE, the largest target
(41_control_flow.md R107), so that no advance wraps (R24, 30_encoding.md R83); a return address is at
most 0x1000, the largest advanced pc (R83); no random byte is left over between operations (log 2). -/
structure State.Inv (s : State) : Prop where
  memCanonical : s.mem.wf = true
  memInRange : s.mem.inRange = true
  pcBound : s.pc.toNat ≤ 0x10FE
  stackBound : ∀ j (h : j < 16), s.stack[j].toNat ≤ 0x1000
  noByteLeft : s.rnd = 0

/-! ### Fetching, and what a sprite covers -/

/-- The fetch checks of 30_encoding.md R82 pass: the word at pc is fetched. -/
abbrev State.Fetchable (s : State) : Prop :=
  (0x200 ≤ s.pc.toNat ∨ s.params.faultOnReservedFetch = false) ∧ s.pc.toNat ≤ 0xFFE

/-- The word at pc (20_memory.md R55). -/
def State.wordAtPc (s : State) : Word :=
  BitVec.ofNat 16 ((s.readByte s.pc.toNat).toNat * 256 + (s.readByte (s.pc.toNat + 1)).toNat)

/-- Whether the `n`-row sprite at I, placed at (Vx mod 64, Vy mod 32), has a 1-bit on the screen
position (column `c`, row `r`) (44_display.md R171, R173): no position beyond the screen's edges is
ever asked about, so nothing wraps (R174). -/
def State.spriteOn (s : State) (x y : Reg) (n c r : Nat) : Bool :=
  let x0 := (s.reg x).toNat % 64
  let y0 := (s.reg y).toNat % 32
  decide (x0 ≤ c ∧ c < x0 + 8 ∧ y0 ≤ r ∧ r < y0 + n) &&
    (s.readByte (s.I.toNat + (r - y0))).getLsbD (7 - (c - x0))

/-! ### What an instruction may change (R39) -/

/-- The elements of the state (R20, R32, R33) and the model's own three. -/
inductive Element where
  | V | I | pc | stack | sp | DT | ST | keypad | video | mem | status | phase | fontLoaded | romLoaded
  | rnd | draws | params
  deriving DecidableEq, Repr

/-- An element is the same in two states; memory byte by byte. -/
def Element.same : Element → State → State → Prop
  | .V, s, t => t.V = s.V
  | .I, s, t => t.I = s.I
  | .pc, s, t => t.pc = s.pc
  | .stack, s, t => t.stack = s.stack
  | .sp, s, t => t.sp = s.sp
  | .DT, s, t => t.DT = s.DT
  | .ST, s, t => t.ST = s.ST
  | .keypad, s, t => t.keypad = s.keypad
  | .video, s, t => t.video = s.video
  | .mem, s, t => ∀ a, t.readByte a = s.readByte a
  | .status, s, t => t.status = s.status
  | .phase, s, t => t.phase = s.phase
  | .fontLoaded, s, t => t.fontLoaded = s.fontLoaded
  | .romLoaded, s, t => t.romLoaded = s.romLoaded
  | .rnd, s, t => t.rnd = s.rnd
  | .draws, s, t => t.draws = s.draws
  | .params, s, t => t.params = s.params

/-- Every element but the listed ones is the same. -/
def UnchangedBut (es : List Element) (s t : State) : Prop := ∀ e, e ∉ es → e.same s t

/-- From `s` to `t` at most the listed registers changed, and nothing beside registers. -/
def RegsOnly (rs : List Reg) (s t : State) : Prop :=
  t = { s with V := t.V } ∧ ∀ r, r ∉ rs → t.reg r = s.reg r

/-- The families of the opcode map, as the spec's files group them. -/
inductive Family where
  | controlFlow | alu | indexMemory | display | timersKeys
  deriving DecidableEq, Repr

/-- The family of an instruction (INDEX of spec/: files 41 to 45). -/
def family : Instr → Family
  | .cls _ => .display
  | .ret _ => .controlFlow
  | .jp _ => .controlFlow
  | .call _ => .controlFlow
  | .seImm _ _ => .controlFlow
  | .sneImm _ _ => .controlFlow
  | .seReg _ _ _ => .controlFlow
  | .ldImm _ _ => .alu
  | .addImm _ _ => .alu
  | .ldReg _ _ => .alu
  | .orReg _ _ => .alu
  | .andReg _ _ => .alu
  | .xorReg _ _ => .alu
  | .addReg _ _ => .alu
  | .sub _ _ => .alu
  | .shr _ _ => .alu
  | .subn _ _ => .alu
  | .shl _ _ => .alu
  | .sneReg _ _ _ => .controlFlow
  | .ldI _ => .indexMemory
  | .jpV0 _ => .controlFlow
  | .rnd _ _ => .alu
  | .drw _ _ _ => .display
  | .skp _ => .timersKeys
  | .sknp _ => .timersKeys
  | .ldVxDT _ => .timersKeys
  | .ldVxK _ => .timersKeys
  | .ldDTVx _ => .timersKeys
  | .ldSTVx _ => .timersKeys
  | .addI _ => .indexMemory
  | .ldF _ => .indexMemory
  | .ldB _ => .indexMemory
  | .storeRegs _ => .indexMemory
  | .loadRegs _ => .indexMemory

/-- The elements an instruction may write beyond the pc advance (R39); `status` for those whose rule
raises a fatal condition (60_exceptions.md R210). -/
def writtenElements : Instr → List Element
  | .cls _ => [.video]
  | .ret _ => [.pc, .sp, .status]
  | .jp _ => [.pc]
  | .call _ => [.pc, .stack, .sp, .status]
  | .seImm _ _ => [.pc]
  | .sneImm _ _ => [.pc]
  | .seReg _ _ _ => [.pc]
  | .ldImm _ _ => [.V]
  | .addImm _ _ => [.V]
  | .ldReg _ _ => [.V]
  | .orReg _ _ => [.V]
  | .andReg _ _ => [.V]
  | .xorReg _ _ => [.V]
  | .addReg _ _ => [.V]
  | .sub _ _ => [.V]
  | .shr _ _ => [.V]
  | .subn _ _ => [.V]
  | .shl _ _ => [.V]
  | .sneReg _ _ _ => [.pc]
  | .ldI _ => [.I]
  | .jpV0 _ => [.pc]
  | .rnd _ _ => [.V]
  | .drw _ _ _ => [.V, .video, .status]
  | .skp _ => [.pc, .status]
  | .sknp _ => [.pc, .status]
  | .ldVxDT _ => [.V]
  | .ldVxK _ => [.V, .pc]
  | .ldDTVx _ => [.DT]
  | .ldSTVx _ => [.ST]
  | .addI _ => [.I]
  | .ldF _ => [.I]
  | .ldB _ => [.mem, .status]
  | .storeRegs _ => [.mem, .status]
  | .loadRegs _ => [.V, .status]

/-- Whether an instruction may write register `r` (R39: `V[x]`, `V[0..x]`, VF as flag). -/
def writesReg (r : Reg) : Instr → Bool
  | .cls _ => false
  | .ret _ => false
  | .jp _ => false
  | .call _ => false
  | .seImm _ _ => false
  | .sneImm _ _ => false
  | .seReg _ _ _ => false
  | .ldImm x _ => decide (r = x)
  | .addImm x _ => decide (r = x)
  | .ldReg x _ => decide (r = x)
  | .orReg x _ => decide (r = x)
  | .andReg x _ => decide (r = x)
  | .xorReg x _ => decide (r = x)
  | .addReg x _ => decide (r = x) || decide (r = VF)
  | .sub x _ => decide (r = x) || decide (r = VF)
  | .shr x _ => decide (r = x) || decide (r = VF)
  | .subn x _ => decide (r = x) || decide (r = VF)
  | .shl x _ => decide (r = x) || decide (r = VF)
  | .sneReg _ _ _ => false
  | .ldI _ => false
  | .jpV0 _ => false
  | .rnd x _ => decide (r = x)
  | .drw _ _ _ => decide (r = VF)
  | .skp _ => false
  | .sknp _ => false
  | .ldVxDT x => decide (r = x)
  | .ldVxK x => decide (r = x)
  | .ldDTVx _ => false
  | .ldSTVx _ => false
  | .addI _ => false
  | .ldF _ => false
  | .ldB _ => false
  | .storeRegs _ => false
  | .loadRegs x => decide (r ≤ x)

/-- Whether an instruction run from `s` stores to address `a` (20_memory.md R57): LD B,Vx three bytes
from I, LD [I],Vx the bytes of V0 to Vx from I; no other instruction stores. -/
def storesTo (s : State) (a : Nat) : Instr → Bool
  | .cls _ => false
  | .ret _ => false
  | .jp _ => false
  | .call _ => false
  | .seImm _ _ => false
  | .sneImm _ _ => false
  | .seReg _ _ _ => false
  | .ldImm _ _ => false
  | .addImm _ _ => false
  | .ldReg _ _ => false
  | .orReg _ _ => false
  | .andReg _ _ => false
  | .xorReg _ _ => false
  | .addReg _ _ => false
  | .sub _ _ => false
  | .shr _ _ => false
  | .subn _ _ => false
  | .shl _ _ => false
  | .sneReg _ _ _ => false
  | .ldI _ => false
  | .jpV0 _ => false
  | .rnd _ _ => false
  | .drw _ _ _ => false
  | .skp _ => false
  | .sknp _ => false
  | .ldVxDT _ => false
  | .ldVxK _ => false
  | .ldDTVx _ => false
  | .ldSTVx _ => false
  | .addI _ => false
  | .ldF _ => false
  | .ldB _ => decide (s.I.toNat ≤ a ∧ a < s.I.toNat + 3)
  | .storeRegs x => decide (s.I.toNat ≤ a ∧ a < s.I.toNat + blockLength x)
  | .loadRegs _ => false

/-- The one kind of fatal condition an instruction's own check can raise (60_exceptions.md R217). -/
def ownFault : Instr → Option FaultKind
  | .cls _ => none
  | .ret _ => some .stackUnderflow
  | .jp _ => none
  | .call _ => some .stackOverflow
  | .seImm _ _ => none
  | .sneImm _ _ => none
  | .seReg _ _ _ => none
  | .ldImm _ _ => none
  | .addImm _ _ => none
  | .ldReg _ _ => none
  | .orReg _ _ => none
  | .andReg _ _ => none
  | .xorReg _ _ => none
  | .addReg _ _ => none
  | .sub _ _ => none
  | .shr _ _ => none
  | .subn _ _ => none
  | .shl _ _ => none
  | .sneReg _ _ _ => none
  | .ldI _ => none
  | .jpV0 _ => none
  | .rnd _ _ => none
  | .drw _ _ _ => some .memoryOutOfRange
  | .skp _ => some .keyIndexOutOfRange
  | .sknp _ => some .keyIndexOutOfRange
  | .ldVxDT _ => none
  | .ldVxK _ => none
  | .ldDTVx _ => none
  | .ldSTVx _ => none
  | .addI _ => none
  | .ldF _ => none
  | .ldB _ => some .memoryOutOfRange
  | .storeRegs _ => some .memoryOutOfRange
  | .loadRegs _ => some .memoryOutOfRange

/-- The frame of an instruction: from `s` to `t` nothing changed but its written elements; of the
registers only those it may write; of the stack at most the entry at the old sp (10_state.md R25); of
memory only the bytes it stores. -/
structure Frame (i : Instr) (s t : State) : Prop where
  elements : UnchangedBut (writtenElements i) s t
  registers : ∀ r, writesReg r i = false → t.reg r = s.reg r
  stackEntries : ∀ j (h : j < 16), j ≠ s.sp.val → t.stack[j] = s.stack[j]
  memory : ∀ a, storesTo s a i = false → t.readByte a = s.readByte a

end Sys2Proof.Machine
end

