-- ==== Sys2Proof/Certificates/Slice0/Obligations.lean ====
section
/-! DEFINITION. The statements for the provers. Each docstring names the rule of spec/ it formalises.
A statement about a meaning is about `exec`, which runs on the state after the pc advance (00_scope.md
R12); a statement about a step is about `step` or `cycle`. Results are said as natural numbers (R9). -/

open Sys2Proof Sys2Proof.Machine

/-! ### Decode and encode (30_encoding.md) -/

/-- Tier 3. Decoding an encoded instruction gives it back with every operand, as a word, as bytes
followed by anything, and numbered as the opcode table numbers its bits. The bit patterns are the
spec's general knowledge G1 (log 5). -/
def Obligations.DecodeOfEncodeIsTheInstruction : Prop :=
  ∀ (i : Instr), i.WellFormed →
    decodeWord (encode i) = some i ∧
    (∀ rest, decode (encodeBytes i ++ rest) = .ok (i, rest)) ∧
    decodeTableWord 16 (encode i).toNat = some i

/-- Every word that decodes encodes one instruction only, and that instruction is well formed. -/
def Obligations.EncodeOfDecodeIsTheWord : Prop :=
  ∀ (w : Word) (i : Instr), decodeWord w = some i → encode i = w ∧ i.WellFormed

/-- R73 to R77 against the table of R75 (G1, log 5; keys D8, log 6): a word decodes to an instruction
exactly if some row selects it, and to an instruction of that row; "The rows are pairwise disjoint: no
word matches two rows". -/
def Obligations.DecodeAgreesWithTheOpcodeMap : Prop :=
  (∀ w : Word, decodeWord w = none ↔ ∀ row ∈ opcodeRows, row.selects w = false) ∧
  (∀ (w : Word) (i : Instr), decodeWord w = some i →
    rowOf i ∈ opcodeRows ∧ (rowOf i).selects w = true) ∧
  (∀ (w : Word), ∀ a ∈ opcodeRows, ∀ b ∈ opcodeRows,
    a.selects w = true → b.selects w = true → a = b)

/-- Tier 1. Words written out from the table of R75, one or more of each family, with ignored bits
(R78) and no-op words (R77). -/
def Obligations.SampleWordsDecode : Prop :=
  decodeWord 0x05E0 = some (.cls 0x5) ∧
  decodeWord 0x00EE = some (.ret 0x0) ∧
  decodeWord 0x2300 = some (.call 0x300) ∧
  decodeWord 0x5121 = some (.seReg 1 2 0x1) ∧
  decodeWord 0x8124 = some (.addReg 1 2) ∧
  decodeWord 0x8AB6 = some (.shr 0xA 0xB) ∧
  decodeWord 0xD3A7 = some (.drw 3 0xA 7) ∧
  decodeWord 0xE2A1 = some (.sknp 2) ∧
  decodeWord 0xF365 = some (.loadRegs 3) ∧
  decodeWord 0xF50A = some (.ldVxK 5) ∧
  decodeWord 0x0000 = none ∧ decodeWord 0x8008 = none ∧ decodeWord 0xE00E = none ∧
  decodeWord 0xFFFF = none

/-- R78 (D24, log 6): the ignored bits do not affect execution (of RET, when it does not fault: the
record of a fault shows the word). -/
def Obligations.IgnoredBitsDoNotAffectExecution : Prop :=
  ∀ (a b : Nibble) (x y : Reg) (s : State),
    exec (.cls a) s = exec (.cls b) s ∧
    (s.sp.val ≠ 0 → exec (.ret a) s = exec (.ret b) s) ∧
    exec (.seReg x y a) s = exec (.seReg x y b) s ∧
    exec (.sneReg x y a) s = exec (.sneReg x y b) s ∧
    exec (.shr x a) s = exec (.shr x b) s ∧
    exec (.shl x a) s = exec (.shl x b) s

/-! ### The cycle (30_encoding.md R81 to R85, 60_exceptions.md) -/

/-- Tier 1, R81 to R83. When the core runs, the fetch checks pass and the two bytes at pc decode to an
instruction, the step is that instruction's meaning on the state with pc advanced by 2, setup closed
and the step's random byte in place (log 2), and then the end of the step: the random byte is gone,
and under TICK_ON_STEP a step that left the core running counts both timers down by at most 1. -/
def Obligations.StepRunsTheDecodedInstruction : Prop :=
  ∀ (s u : State) (i : Instr), s.status = .running → s.Fetchable →
    decode [s.readByte s.pc.toNat, s.readByte (s.pc.toNat + 1)] = .ok (i, []) →
    exec i { s with
      pc := s.pc + 2, phase := .run, rnd := Config.randomByte s.draws, draws := s.draws + 1 } =
        .next u →
    step s = .next
      (if u.params.tickOnStep = true ∧ u.status = .running then
        { u with
          rnd := 0, DT := BitVec.ofNat 8 (u.DT.toNat - 1), ST := BitVec.ofNat 8 (u.ST.toNat - 1) }
      else { u with rnd := 0 })

/-- R76 (log 4: a no-op word is one that decodes to nothing). A word that matches no documented
instruction advances pc and changes nothing else, but for what every step does: setup closes (R81, D18),
a tick under TICK_ON_STEP (D14), and the model's own `draws` and `rnd`, which are its choice (log 2). -/
def Obligations.NoOpWordsOnlyAdvancePc : Prop :=
  ∀ (s : State), s.status = .running → s.Fetchable → decodeWord s.wordAtPc = none →
    step s = .next
      (if s.params.tickOnStep = true then
        { s with
          pc := s.pc + 2, phase := .run, rnd := 0, draws := s.draws + 1,
          DT := BitVec.ofNat 8 (s.DT.toNat - 1), ST := BitVec.ofNat 8 (s.ST.toNat - 1) }
      else { s with pc := s.pc + 2, phase := .run, rnd := 0, draws := s.draws + 1 })

/-- R82 (D4, D5; logs 14, 15). A fetch below 0x200 under FAULT_ON_RESERVED_FETCH, or at 0xFFF or
above, halts the core with pc still at the address, and nothing but status and phase changes. -/
def Obligations.FetchChecksHaltTheCore : Prop :=
  ∀ (s : State), s.status = .running →
    (s.pc.toNat < 0x200 → s.params.faultOnReservedFetch = true →
      step s = .next { s with
        phase := .run, rnd := 0, draws := s.draws + 1,
        status := .halted
          ⟨.reservedFetch, some s.pc, none, .none⟩ }) ∧
    (0xFFF ≤ s.pc.toNat →
      step s = .next { s with
        phase := .run, rnd := 0, draws := s.draws + 1,
        status := .halted
          ⟨.memoryOutOfRange, some s.pc, none, .addr (max s.pc.toNat 0x1000)⟩ })

/-- R84 (D3, log 3). A step on a halted core answers the stored record and nothing else; its result
carries that record and no video flag. -/
def Obligations.HaltedCoreAnswersItsRecord : Prop :=
  ∀ (s : State) (record : FaultRecord), s.status = .halted record →
    step s = .fault (.halted record) ∧
    ∀ rnd, cycleOutput rnd s = some { fault := some record, videoWritten := false }

/-- R81 ("never blocks"). Every step of a running core answers a next state, which may be a halted one:
that a step which meets a fatal condition (R213) is a next state is the model's reading, log 3. -/
def Obligations.EveryRunningStepCompletes : Prop :=
  ∀ (s : State), s.status = .running → ∃ t, step s = .next t

/-- R217 (4), R210, R214 (codes and record D17). Every instruction answers a next state; on a running
core that state runs, or is halted by the one kind of fatal condition the instruction's own rule
names, recorded with the instruction's address and word. An instruction whose rule raises no fault
always completes (R86). -/
def Obligations.ExecHaltsOnlyWithItsOwnFault : Prop :=
  ∀ (i : Instr) (s : State), s.status = .running →
    ∃ t, exec i s = .next t ∧
      (t.status = .running ∨
        ∃ record, t.status = .halted record ∧ ownFault i = some record.kind ∧
          record.ia = some (s.pc - 2) ∧ record.w = some (encode i))

/-- R215 (D21, log 21). Faults are precise: when an instruction halts the core, nothing but status
has changed since the pc advance. -/
def Obligations.ExecutionFaultsArePrecise : Prop :=
  ∀ (i : Instr) (s t : State) (record : FaultRecord), s.status = .running →
    exec i s = .next t → t.status = .halted record → t = { s with status := .halted record }

/-- R215, R226. A step that halts the core changes nothing but status, phase and, for an execution
fault, pc, whatever TICK_ON_STEP says (so no tick happens on it); `rnd` and `draws` are the model's
own (log 2). -/
def Obligations.FaultingStepsDoNotTick : Prop :=
  ∀ (s t : State) (record : FaultRecord), step s = .next t → t.status = .halted record →
    (t.pc = s.pc ∨ t.pc = s.pc + 2) ∧
    t = { s with
      pc := t.pc, phase := .run, status := .halted record, rnd := 0, draws := s.draws + 1 }

/-- R85 (D16, log 19). The result of a step of a running core: the record if the step halted the
core, and the video flag exactly if it did not and the word at pc is CLS or DRW. -/
def Obligations.StepOutputReportsFaultAndVideo : Prop :=
  ∀ (rnd : Byte) (s t : State), cycle rnd s = .next t →
    (∀ record, t.status = .halted record →
      cycleOutput rnd s = some { fault := some record, videoWritten := false }) ∧
    (t.status = .running → ∃ o, cycleOutput rnd s = some o ∧ o.fault = none ∧
      (o.videoWritten = true ↔
        (∃ ign, decodeWord s.wordAtPc = some (.cls ign)) ∨
        ∃ x y n, decodeWord s.wordAtPc = some (.drw x y n)))

/-- R229 (D15, log 2). The random byte of a step is read by RND only. -/
def Obligations.RandomByteMattersOnlyToRnd : Prop :=
  ∀ (a b : Byte) (s : State), (∀ x kk, decodeWord s.wordAtPc ≠ some (.rnd x kk)) →
    cycle a s = cycle b s

/-- R29, R33, R39 and log 1. No step writes the key latch, the record of the loads or the parameters;
after a step setup is closed. -/
def Obligations.StepsLeaveTheHostsElementsAlone : Prop :=
  ∀ (s t : State), step s = .next t →
    t.keypad = s.keypad ∧ t.fontLoaded = s.fontLoaded ∧ t.romLoaded = s.romLoaded ∧
    t.params = s.params ∧ t.phase = .run

/-- R28: "No instruction reads it". Two states that differ in the sound timer run an instruction the
same, up to the sound timer. -/
def Obligations.NoInstructionReadsTheSoundTimer : Prop :=
  ∀ (i : Instr) (s t : State) (v : Byte), exec i s = .next t →
    ∃ u, exec i { s with ST := v } = .next u ∧ { u with ST := t.ST } = t

/-- R25. Stack entries at or above sp "keep their last values, which no instruction can observe before
a CALL overwrites them": states that agree below sp run an instruction the same, and agree below sp
again. -/
def Obligations.PoppedStackEntriesAreNotObserved : Prop :=
  ∀ (i : Instr) (s t : State) (stack : Vector Word 16),
    (∀ j (h : j < 16), j < s.sp.val → stack[j] = s.stack[j]) → exec i s = .next t →
    ∃ u, exec i { s with stack := stack } = .next u ∧ { u with stack := t.stack } = t ∧
      ∀ j (h : j < 16), j < t.sp.val → u.stack[j] = t.stack[j]

/-- R61, R55 (D22). A store is seen by the next fetch: when LD [I],Vx has stored over both bytes at
pc, the next word fetched is the one stored, high byte first. -/
def Obligations.StoredBytesAreFetchedNext : Prop :=
  ∀ (x a b : Reg) (s : State), s.I.toNat + x.val ≤ 0xFFF → b.val = a.val + 1 → b ≤ x →
    s.pc.toNat = s.I.toNat + a.val →
    ∃ t, exec (.storeRegs x) s = .next t ∧ t.pc = s.pc ∧
      t.fetchWord.toNat = (s.reg a).toNat * 256 + (s.reg b).toNat

/-! ### Invariants -/

/-- Tier 3, R37, R24, R83, R107. Every step keeps the invariant. -/
def Obligations.EveryStepKeepsTheInvariant : Prop :=
  ∀ (s t : State), s.Inv → step s = .next t → t.Inv

/-- Tier 3. Every operation of the host keeps the invariant. -/
def Obligations.EveryHostOperationKeepsTheInvariant : Prop :=
  ∀ (op : HostOp) (s t : State), s.Inv → op.apply s = .next t → t.Inv

/-- Tier 1. The invariant holds at reset, whatever the parameters. -/
def Obligations.ResetHasTheInvariant : Prop :=
  State.reset.Inv ∧ ∀ params, (State.resetWith params).Inv

/-- R37, R216 (D3; log 13 for the key latch). A halted core is left by reset only: every other
operation that answers a next state leaves all but the key latch as it is. -/
def Obligations.OnlyResetLeavesHalted : Prop :=
  ∀ (op : HostOp) (s t : State) (record : FaultRecord), s.status = .halted record →
    op.apply s = .next t → op ≠ .reset → t = { s with keypad := t.keypad }

/-! ### Control flow (41_control_flow.md) -/

/-- R100, R107. JP addr jumps to nnn, JP V0,addr to nnn + V0, which never wraps; nothing else
changes. -/
def Obligations.JumpsSetPc : Prop :=
  ∀ (nnn : Addr) (s : State),
    (∃ t, exec (.jp nnn) s = .next t ∧ t.pc.toNat = nnn.toNat ∧ t = { s with pc := t.pc }) ∧
    (∃ t, exec (.jpV0 nnn) s = .next t ∧ t.pc.toNat = nnn.toNat + (s.reg 0).toNat ∧
      t = { s with pc := t.pc })

/-- R101. CALL pushes the advanced pc, the return address, and jumps; at sp = 16 it is fatal and
nothing is written. The form of the record is R214's (D17). -/
def Obligations.CallPushesTheReturnAddress : Prop :=
  ∀ (nnn : Addr) (s : State),
    (∀ h : s.sp.val < 16, ∃ t, exec (.call nnn) s = .next t ∧
      t.stack[s.sp.val] = s.pc ∧ t.sp.val = s.sp.val + 1 ∧ t.pc.toNat = nnn.toNat) ∧
    (s.sp.val = 16 → exec (.call nnn) s = .next { s with
      status := .halted ⟨.stackOverflow, some (s.pc - 2), some (encode (.call nnn)), .sp 16⟩ })

/-- R102. RET takes the entry at the decremented sp, which it does not clear; at sp = 0 it is fatal.
The form of the record is R214's (D17). -/
def Obligations.RetPopsTheReturnAddress : Prop :=
  ∀ (ign : Nibble) (s : State),
    (∀ h : 0 < s.sp.val, ∃ t, exec (.ret ign) s = .next t ∧
      t.sp.val = s.sp.val - 1 ∧ t.pc = s.stack[s.sp.val - 1] ∧ t.stack = s.stack) ∧
    (s.sp.val = 0 → exec (.ret ign) s = .next { s with
      status := .halted ⟨.stackUnderflow, some (s.pc - 2), some (encode (.ret ign)), .sp 0⟩ })

/-- The source's property (95_test_vectors.md E5) from R101 and R102: "CALL then RET restores `pc` to
the instruction following the CALL, and leaves `sp` unchanged from its pre-CALL value". -/
def Obligations.CallThenRetRestoresPcAndSp : Prop :=
  ∀ (nnn : Addr) (ign : Nibble) (s : State), s.sp.val < 16 →
    ∃ t u, exec (.call nnn) s = .next t ∧ exec (.ret ign) t.advancePc = .next u ∧
      u.pc = s.pc ∧ u.sp = s.sp ∧ u = { s with stack := u.stack }

/-- R103 to R106. A taken skip adds 2 to the advanced pc, and nothing else changes; no condition, no
skip. -/
def Obligations.SkipsAddTwoToPc : Prop :=
  ∀ (x y : Reg) (kk : Byte) (ign : Nibble) (s : State),
    exec (.seImm x kk) s =
      .next (if (s.reg x).toNat = kk.toNat then { s with pc := s.pc + 2 } else s) ∧
    exec (.sneImm x kk) s =
      .next (if (s.reg x).toNat = kk.toNat then s else { s with pc := s.pc + 2 }) ∧
    exec (.seReg x y ign) s =
      .next (if (s.reg x).toNat = (s.reg y).toNat then { s with pc := s.pc + 2 } else s) ∧
    exec (.sneReg x y ign) s =
      .next (if (s.reg x).toNat = (s.reg y).toNat then s else { s with pc := s.pc + 2 })

/-! ### Register arithmetic, logic and random (42_alu.md) -/

/-- R121, R123 to R126. Loads, the copy and the three bitwise instructions, for every destination
(VF among them, as an ordinary register); nothing else changes. -/
def Obligations.LoadsCopiesAndLogicWriteVx : Prop :=
  ∀ (x y : Reg) (kk : Byte) (s : State),
    (∃ t, exec (.ldImm x kk) s = .next t ∧ t.reg x = kk ∧ RegsOnly [x] s t) ∧
    (∃ t, exec (.ldReg x y) s = .next t ∧ t.reg x = s.reg y ∧ RegsOnly [x] s t) ∧
    (∃ t, exec (.orReg x y) s = .next t ∧ RegsOnly [x] s t ∧ ∀ k,
      (t.reg x).getLsbD k = ((s.reg x).getLsbD k || (s.reg y).getLsbD k)) ∧
    (∃ t, exec (.andReg x y) s = .next t ∧ RegsOnly [x] s t ∧ ∀ k,
      (t.reg x).getLsbD k = ((s.reg x).getLsbD k && (s.reg y).getLsbD k)) ∧
    (∃ t, exec (.xorReg x y) s = .next t ∧ RegsOnly [x] s t ∧ ∀ k,
      (t.reg x).getLsbD k = ((s.reg x).getLsbD k ^^ (s.reg y).getLsbD k))

/-- R122. ADD Vx,kk wraps and writes Vx only: no flag is touched (for x = 0xF, VF is the
destination). -/
def Obligations.AddImmediateWrapsWithoutFlag : Prop :=
  ∀ (x : Reg) (kk : Byte) (s : State), ∃ t, exec (.addImm x kk) s = .next t ∧
    (t.reg x).toNat = ((s.reg x).toNat + kk.toNat) % 256 ∧ RegsOnly [x] s t

/-- R127, and R133 for x = 0xF ("final VF = f under both settings"). ADD Vx,Vy wraps; VF is 1 exactly
if the unreduced sum exceeds 255; nothing but Vx and VF changes. -/
def Obligations.AddRegistersReportsCarry : Prop :=
  ∀ (x y : Reg) (s : State), ∃ t, exec (.addReg x y) s = .next t ∧
    RegsOnly [x, VF] s t ∧ (x ≠ VF → (t.reg x).toNat = ((s.reg x).toNat + (s.reg y).toNat) % 256) ∧
    (t.reg VF).toNat = if (s.reg x).toNat + (s.reg y).toNat > 255 then 1 else 0

/-- R128, R130 for x ≠ 0xF. The differences wrap; VF is 1 exactly if the first operand is strictly
greater. (x = 0xF: VfAsDestinationFollowsTheWriteOrder.) -/
def Obligations.SubtractionsReportNoBorrow : Prop :=
  ∀ (x y : Reg) (s : State),
    (∃ t, exec (.sub x y) s = .next t ∧ RegsOnly [x, VF] s t ∧ (x ≠ VF →
      (t.reg x).toNat = ((s.reg x).toNat + 256 - (s.reg y).toNat) % 256 ∧
      (t.reg VF).toNat = if (s.reg x).toNat > (s.reg y).toNat then 1 else 0)) ∧
    (∃ t, exec (.subn x y) s = .next t ∧ RegsOnly [x, VF] s t ∧ (x ≠ VF →
      (t.reg x).toNat = ((s.reg y).toNat + 256 - (s.reg x).toNat) % 256 ∧
      (t.reg VF).toNat = if (s.reg y).toNat > (s.reg x).toNat then 1 else 0))

/-- R129, R131 for x ≠ 0xF. Shifts by one; VF is the bit shifted out. -/
def Obligations.ShiftsReportTheBitShiftedOut : Prop :=
  ∀ (x : Reg) (ign : Nibble) (s : State),
    (∃ t, exec (.shr x ign) s = .next t ∧ RegsOnly [x, VF] s t ∧ (x ≠ VF →
      (t.reg x).toNat = (s.reg x).toNat / 2 ∧
      t.reg VF = if (s.reg x).getLsbD 0 then 1 else 0)) ∧
    (∃ t, exec (.shl x ign) s = .next t ∧ RegsOnly [x, VF] s t ∧ (x ≠ VF →
      (t.reg x).toNat = (s.reg x).toNat * 2 % 256 ∧
      t.reg VF = if (s.reg x).getLsbD 7 then 1 else 0))

/-- R133 (D10, log 16), the table for x = 0xF: VF ends as the flag for ADD Vx,Vy under both settings of
VF_WRITE_ORDER, and for SUB, SHR, SUBN, SHL as the result under doc_order and the flag under
flag_last; nothing else changes. -/
def Obligations.VfAsDestinationFollowsTheWriteOrder : Prop :=
  ∀ (y : Reg) (ign : Nibble) (s : State),
    let a := (s.reg VF).toNat
    let b := (s.reg y).toNat
    let final := fun (r f : Nat) => if s.params.vfWriteOrder = .docOrder then r else f
    (∃ t, exec (.addReg VF y) s = .next t ∧ RegsOnly [VF] s t ∧
      (t.reg VF).toNat = if a + b > 255 then 1 else 0) ∧
    (∃ t, exec (.sub VF y) s = .next t ∧ RegsOnly [VF] s t ∧
      (t.reg VF).toNat = final ((a + 256 - b) % 256) (if a > b then 1 else 0)) ∧
    (∃ t, exec (.shr VF ign) s = .next t ∧ RegsOnly [VF] s t ∧
      (t.reg VF).toNat = final (a / 2) (a % 2)) ∧
    (∃ t, exec (.subn VF y) s = .next t ∧ RegsOnly [VF] s t ∧
      (t.reg VF).toNat = final ((b + 256 - a) % 256) (if b > a then 1 else 0)) ∧
    (∃ t, exec (.shl VF ign) s = .next t ∧ RegsOnly [VF] s t ∧
      (t.reg VF).toNat = final (a * 2 % 256) (a / 128))

/-- R132. RND puts the step's random byte masked by kk into Vx, whatever the byte; bits outside kk are
0. -/
def Obligations.RandomByteIsMaskedByTheImmediate : Prop :=
  (∀ (x : Reg) (kk : Byte) (s : State), ∃ t, exec (.rnd x kk) s = .next t ∧
    RegsOnly [x] s t ∧ ∀ k, (t.reg x).getLsbD k = (s.rnd.getLsbD k && kk.getLsbD k)) ∧
  (∀ (x : Reg) (kk rnd : Byte) (s : State), s.status = .running → s.Fetchable →
    decodeWord s.wordAtPc = some (.rnd x kk) →
    ∃ t, cycle rnd s = .next t ∧ ∀ k, (t.reg x).getLsbD k = (rnd.getLsbD k && kk.getLsbD k))

/-! ### Index register and memory (43_index_memory.md) -/

/-- R150 to R152. LD I,addr; ADD I,Vx, which wraps modulo 65536, sets no flag and does not fault;
LD F,Vx, which masks Vx to 4 bits. Nothing but I changes. -/
def Obligations.IndexInstructionsSetI : Prop :=
  ∀ (nnn : Addr) (x : Reg) (s : State),
    (∃ t, exec (.ldI nnn) s = .next t ∧ t.I.toNat = nnn.toNat ∧ t = { s with I := t.I }) ∧
    (∃ t, exec (.addI x) s = .next t ∧ t.I.toNat = (s.I.toNat + (s.reg x).toNat) % 65536 ∧
      t = { s with I := t.I }) ∧
    (∃ t, exec (.ldF x) s = .next t ∧ t.I.toNat = 0x050 + 5 * ((s.reg x).toNat % 16) ∧
      t = { s with I := t.I })

/-- R153. LD B,Vx stores hundreds, tens and ones of Vx at I, I+1, I+2 when all three lie in memory. -/
def Obligations.BcdStoresTheDecimalDigits : Prop :=
  ∀ (x : Reg) (s : State), s.I.toNat + 2 ≤ 0xFFF →
    ∃ t, exec (.ldB x) s = .next t ∧
      let h := (t.readByte s.I.toNat).toNat
      let d := (t.readByte (s.I.toNat + 1)).toNat
      let o := (t.readByte (s.I.toNat + 2)).toNat
      h * 100 + d * 10 + o = (s.reg x).toNat ∧ h ≤ 2 ∧ d ≤ 9 ∧ o ≤ 9 ∧ t.I = s.I

/-- R154. LD [I],Vx stores V0 to Vx inclusive at I .. I+x, and I stays (D19, log 20). -/
def Obligations.StoreRegistersWritesTheBlock : Prop :=
  ∀ (x : Reg) (s : State), s.I.toNat + x.val ≤ 0xFFF →
    ∃ t, exec (.storeRegs x) s = .next t ∧ t.I = s.I ∧
      ∀ r : Reg, r ≤ x → t.readByte (s.I.toNat + r.val) = s.reg r

/-- R155. LD Vx,[I] loads V0 to Vx inclusive from I .. I+x, leaves the registers above Vx, and I stays
(D19, log 20). -/
def Obligations.LoadRegistersReadsTheBlock : Prop :=
  ∀ (x : Reg) (s : State), s.I.toNat + x.val ≤ 0xFFF →
    ∃ t, exec (.loadRegs x) s = .next t ∧ t.I = s.I ∧
      ∀ r : Reg, t.reg r = if r ≤ x then s.readByte (s.I.toNat + r.val) else s.reg r

/-- R155 ("Store then load with the same x and I reproduces V0..Vx"), 95_test_vectors.md E7: whatever
the registers hold when they are loaded. -/
def Obligations.StoreThenLoadReproducesTheRegisters : Prop :=
  ∀ (x : Reg) (s t u : State), s.I.toNat + x.val ≤ 0xFFF → exec (.storeRegs x) s = .next t →
    u.mem = t.mem → u.I = t.I →
    ∃ v, exec (.loadRegs x) u = .next v ∧ ∀ r : Reg, r ≤ x → v.reg r = s.reg r

/-- R53, R54 (D4, log 14), R173 (D12, log 18). An access that would touch an address above 0xFFF is
fatal, addresses do not wrap, and nothing is written: LD B,Vx, LD [I],Vx, LD Vx,[I], and DRW with at
least one row. The record holds the lowest such address (R210). -/
def Obligations.TransfersOutOfRangeHaltUnchanged : Prop :=
  ∀ (x y : Reg) (n : Nat) (s : State),
    let haltedBy := fun (i : Instr) => Host.Outcome.next (φ := Fault) (ρ := Refusal) { s with
      status := .halted ⟨.memoryOutOfRange, some (s.pc - 2), some (encode i),
        .addr (max s.I.toNat 0x1000)⟩ }
    (s.I.toNat + 2 > 0xFFF → exec (.ldB x) s = haltedBy (.ldB x)) ∧
    (s.I.toNat + x.val > 0xFFF →
      exec (.storeRegs x) s = haltedBy (.storeRegs x) ∧
      exec (.loadRegs x) s = haltedBy (.loadRegs x)) ∧
    (0 < n → s.I.toNat + (n - 1) > 0xFFF → exec (.drw x y n) s = haltedBy (.drw x y n))

/-! ### Display (44_display.md) -/

/-- R172. CLS turns every pixel off, whatever was on, and changes nothing else. -/
def Obligations.ClsTurnsEveryPixelOff : Prop :=
  ∀ (ign : Nibble) (s : State), ∃ t, exec (.cls ign) s = .next t ∧
    (∀ p, p < 2048 → t.video.pixelAt p = false) ∧ t = { s with video := t.video }

/-- R171, R173 to R175 (bit order G3, log 8; n = 0 and clipped rows D12, log 18). When the
sprite's rows lie in memory, DRW completes; every pixel is what it was XOR the sprite's bit there;
VF is 1 if some pixel that was on is covered by a 1-bit, else 0; the other registers stay. -/
def Obligations.DrawXorsTheSpriteAndReportsCollision : Prop :=
  ∀ (x y : Reg) (n : Nat) (s : State), n = 0 ∨ s.I.toNat + (n - 1) ≤ 0xFFF →
    ∃ t, exec (.drw x y n) s = .next t ∧
      (∀ c r, c < 64 → r < 32 →
        t.video.pixel c r = (s.video.pixel c r ^^ s.spriteOn x y n c r)) ∧
      (t.reg VF = 1 ↔
        ∃ c r, c < 64 ∧ r < 32 ∧ s.video.pixel c r = true ∧ s.spriteOn x y n c r = true) ∧
      (t.reg VF = 0 ∨ t.reg VF = 1) ∧
      ∀ q, q ≠ VF → t.reg q = s.reg q

/-- R173, 95_test_vectors.md E4. Drawing the same sprite twice at the same place restores the screen,
when VF, which the first drawing writes, is not one of the two position registers. -/
def Obligations.DrawingTwiceRestoresTheScreen : Prop :=
  ∀ (x y : Reg) (n : Nat) (s t : State), x ≠ VF → y ≠ VF →
    (n = 0 ∨ s.I.toNat + (n - 1) ≤ 0xFFF) → exec (.drw x y n) s = .next t →
    ∃ u, exec (.drw x y n) t = .next u ∧ u.video = s.video

/-! ### Timers and keys (45_timers_keys.md, 60_exceptions.md) -/

/-- R190 to R192, R227. LD Vx,DT reads the delay timer; LD DT,Vx and LD ST,Vx set the timers and
nothing else; the tone is requested exactly while ST is not 0. -/
def Obligations.TimerInstructionsMoveTheTimers : Prop :=
  ∀ (x : Reg) (s : State),
    (∃ t, exec (.ldVxDT x) s = .next t ∧ t.reg x = s.DT ∧ RegsOnly [x] s t) ∧
    exec (.ldDTVx x) s = .next { s with DT := s.reg x } ∧
    exec (.ldSTVx x) s = .next { s with ST := s.reg x } ∧
    (s.soundActive = true ↔ s.ST.toNat ≠ 0)

/-- R193, R194, R196 (D11, log 17). SKP and SKNP skip on the latch of key Vx when Vx is 0 to 15; above
it they are fatal and nothing is written. -/
def Obligations.KeySkipsReadTheLatch : Prop :=
  ∀ (x : Reg) (s : State),
    (∀ h : (s.reg x).toNat < 16,
      exec (.skp x) s = .next
        (if s.keypad[(s.reg x).toNat] = true then { s with pc := s.pc + 2 } else s) ∧
      exec (.sknp x) s = .next
        (if s.keypad[(s.reg x).toNat] = true then s else { s with pc := s.pc + 2 })) ∧
    (15 < (s.reg x).toNat →
      exec (.skp x) s = .next { s with
        status := .halted
          ⟨.keyIndexOutOfRange, some (s.pc - 2), some (encode (.skp x)), .key (s.reg x)⟩ } ∧
      exec (.sknp x) s = .next { s with
        status := .halted
          ⟨.keyIndexOutOfRange, some (s.pc - 2), some (encode (.sknp x)), .key (s.reg x)⟩ })

/-- R195. LD Vx,K takes the lowest-indexed held key and proceeds; with no key held it writes nothing
and moves pc back by 2. -/
def Obligations.KeyWaitTakesTheLowestHeldKeyOrRepeats : Prop :=
  ∀ (x : Reg) (s : State),
    (∀ k : Reg, s.keypad[k.val] = true → (∀ j : Reg, j < k → s.keypad[j.val] = false) →
      ∃ t, exec (.ldVxK x) s = .next t ∧ (t.reg x).toNat = k.val ∧ RegsOnly [x] s t) ∧
    ((∀ k : Reg, s.keypad[k.val] = false) → exec (.ldVxK x) s = .next { s with pc := s.pc - 2 })

/-- R260, R195. A step that polls with no key held leaves pc at the instruction and every register as
it was: the next step runs it again. -/
def Obligations.KeyWaitPollsAtItsOwnAddress : Prop :=
  ∀ (x : Reg) (s : State), s.status = .running → s.Fetchable →
    decodeWord s.wordAtPc = some (.ldVxK x) → (∀ k : Reg, s.keypad[k.val] = false) →
    ∃ t, step s = .next t ∧ t.status = .running ∧ t.pc = s.pc ∧ t.V = s.V ∧
      decodeWord t.wordAtPc = some (.ldVxK x)

/-- R221. The tick counts both timers down by at most 1, floored at 0, each by itself, and changes
nothing else; on a halted core it changes nothing. -/
def Obligations.TickCountsBothTimersDown : Prop :=
  ∀ (s : State),
    (s.status = .running →
      (tickTimers s).DT.toNat = s.DT.toNat - 1 ∧ (tickTimers s).ST.toNat = s.ST.toNat - 1 ∧
      tickTimers s = { s with DT := (tickTimers s).DT, ST := (tickTimers s).ST }) ∧
    (∀ record, s.status = .halted record → tickTimers s = s)

/-! ### Reset and the host's loads (70_reset_and_hazards.md, 60_exceptions.md) -/

/-- R38. The value of every element after creation (status D3, phase D18). -/
def Obligations.ResetHoldsTheListedValues : Prop :=
  (∀ r, State.reset.reg r = 0) ∧ State.reset.I = 0x0000 ∧ State.reset.pc = 0x0200 ∧
  (∀ j (h : j < 16), State.reset.stack[j] = 0x0000) ∧ State.reset.sp = 0 ∧
  State.reset.DT = 0 ∧ State.reset.ST = 0 ∧
  (∀ k (h : k < 16), State.reset.keypad[k] = false) ∧
  (∀ p, p < 2048 → State.reset.video.pixelAt p = false) ∧
  (∀ a, State.reset.readByte a = 0x00) ∧
  State.reset.status = .running ∧ State.reset.phase = .setup ∧
  State.reset.fontLoaded = false ∧ State.reset.romLoaded = false

/-- R250. Reset is admitted always, from a halted core too, and gives every element its value of R38,
whatever the state before. The parameters, and the model's own counter (log 2), stay. -/
def Obligations.ResetOperationGivesTheResetState : Prop :=
  ∀ (s : State), ∃ t, HostOp.reset.apply s = .next t ∧
    t = { State.reset with params := s.params, draws := s.draws }

/-- R223. The key latch write writes all 16 flags and nothing else. It lands on a halted core too: R216,
which the model follows over R37 (log 13). -/
def Obligations.SetKeysWritesTheWholeLatch : Prop :=
  ∀ (k : Vector Bool 16) (s : State), ∃ t, (HostOp.setKeys k).apply s = .next t ∧
    (∀ i (h : i < 16), t.keypad[i] = k[i]) ∧ t = { s with keypad := t.keypad }

/-- R251, R255 (D18, log 12). When it is admitted, font load writes FONT at 0x050 to 0x09F and nothing
else in memory, and closes itself; otherwise it is refused. -/
def Obligations.FontLoadWritesTheFontOnce : Prop :=
  ∀ (s : State),
    (s.phase = .setup → s.status = .running → s.fontLoaded = false →
      ∃ t, loadFont s = .next t ∧ t.fontLoaded = true ∧
        (∀ i (h : i < 80), t.readByte (0x050 + i) = s.params.font[i]) ∧
        (∀ a, a < 0x050 ∨ 0x09F < a → t.readByte a = s.readByte a) ∧
        t = { s with mem := t.mem, fontLoaded := true }) ∧
    (s.phase = .run ∨ s.status ≠ .running ∨ s.fontLoaded = true →
      loadFont s = .refused .fontLoadNotAdmitted)

/-- R253 to R255 (D18, log 12; D26, log 21). When it is admitted, ROM load of at most 3584 bytes
writes them from 0x200 on and nothing else in memory, and closes itself; a longer ROM halts the core
with RomTooLarge and writes nothing; otherwise it is refused. -/
def Obligations.RomLoadWritesTheRomOnce : Prop :=
  ∀ (bytes : List Byte) (s : State),
    (s.phase = .setup → s.status = .running → s.romLoaded = false → bytes.length ≤ 3584 →
      ∃ t, loadRom bytes s = .next t ∧ t.romLoaded = true ∧
        (∀ i (h : i < bytes.length), t.readByte (0x200 + i) = bytes[i]) ∧
        (∀ a, a < 0x200 ∨ 0x200 + bytes.length ≤ a → t.readByte a = s.readByte a) ∧
        t = { s with mem := t.mem, romLoaded := true }) ∧
    (s.phase = .setup → s.status = .running → s.romLoaded = false → 3584 < bytes.length →
      loadRom bytes s = .next { s with
        status := .halted ⟨.romTooLarge, none, none, .len bytes.length⟩ }) ∧
    (s.phase = .run ∨ s.status ≠ .running ∨ s.romLoaded = true →
      loadRom bytes s = .refused .romLoadNotAdmitted)

/-- Tier 1, R257. Stepped from reset with nothing loaded, the core runs 1792 no-ops to pc = 0x1000; the next
step halts it there, and the one after answers that record. -/
def Obligations.UnloadedCoreSlidesToTheEndOfMemory : Prop :=
  let record : FaultRecord :=
    ⟨.memoryOutOfRange, some 0x1000, none, .addr 0x1000⟩
  (∃ t : State, Sys2Proof.core.run 1792 State.reset = .next t ∧ t.status = .running ∧
    t = { State.reset with pc := 0x1000, phase := .run, draws := t.draws }) ∧
  (∃ u : State, Sys2Proof.core.run 1793 State.reset = .next u ∧ u.status = .halted record ∧
    u.pc = 0x1000) ∧
  Sys2Proof.core.run 1794 State.reset = .fault (.halted record)

/-! ### Frames (10_state.md R39)

A frame lets an instruction that halts the core change its written elements too; that such an
instruction changes status only is `ExecutionFaultsArePrecise`. -/

/-- JP addr, CALL addr, RET, SE and SNE (both forms), JP V0,addr: no register, memory byte, timer,
pixel or I changes; the stack changes only at the old sp, and only by CALL; sp and status only by CALL and RET. -/
def Obligations.ControlFlowFrame : Prop :=
  ∀ (i : Instr) (s t : State), family i = .controlFlow → exec i s = .next t → Frame i s t

/-- LD Vx,kk, ADD Vx,kk, LD, OR, AND, XOR, ADD, SUB, SHR, SUBN, SHL and RND: only Vx changes, and VF for
ADD Vx,Vy, SUB, SHR, SUBN, SHL; no memory byte changes. -/
def Obligations.AluFrame : Prop :=
  ∀ (i : Instr) (s t : State), family i = .alu → exec i s = .next t → Frame i s t

/-- LD I,addr, ADD I,Vx, LD F,Vx change only I; LD B,Vx and LD [I],Vx only the bytes they store, at the
I they run with; LD Vx,[I] only V0 to Vx; these three also status. -/
def Obligations.IndexMemoryFrame : Prop :=
  ∀ (i : Instr) (s t : State), family i = .indexMemory → exec i s = .next t → Frame i s t

/-- CLS changes only the framebuffer; DRW the framebuffer, VF and status. -/
def Obligations.DisplayFrame : Prop :=
  ∀ (i : Instr) (s t : State), family i = .display → exec i s = .next t → Frame i s t

/-- LD Vx,DT changes only Vx, LD DT,Vx only DT, LD ST,Vx only ST, SKP and SKNP only pc and
status, LD Vx,K only Vx or pc; none writes the key latch. -/
def Obligations.TimersKeysFrame : Prop :=
  ∀ (i : Instr) (s t : State), family i = .timersKeys → exec i s = .next t → Frame i s t
end

