-- ==== Sys2Proof/Laws/Decode.lean ====
section
/-! SUPPORT. The small lemmas of the fields and of the words built from them (30_encoding.md R71): what
each is as a number, each field read back from the word it was put in, and a word is its fields. -/

namespace Sys2Proof

theorem regOfField_fieldOfReg (r : Reg) : regOfField (fieldOfReg r) = r := by
  apply Fin.ext; simp only [regOfField, fieldOfReg, BitVec.toNat_ofNat]; omega

theorem fieldOfReg_regOfField (f : Nibble) : fieldOfReg (regOfField f) = f := by
  simp [regOfField, fieldOfReg]

theorem toNat_fieldKind (w : Word) : (fieldKind w).toNat = w.toNat / 4096 := by
  have := w.isLt
  simp only [fieldKind, BitVec.extractLsb'_toNat, Nat.shiftRight_eq_div_pow]; omega

theorem toNat_fieldX (w : Word) : (fieldX w).toNat = w.toNat / 256 % 16 := by
  simp only [fieldX, BitVec.extractLsb'_toNat, Nat.shiftRight_eq_div_pow]

theorem toNat_fieldY (w : Word) : (fieldY w).toNat = w.toNat / 16 % 16 := by
  simp only [fieldY, BitVec.extractLsb'_toNat, Nat.shiftRight_eq_div_pow]

theorem toNat_fieldN (w : Word) : (fieldN w).toNat = w.toNat % 16 := by
  simp [fieldN, BitVec.extractLsb'_toNat]

theorem toNat_fieldKK (w : Word) : (fieldKK w).toNat = w.toNat % 256 := by
  simp [fieldKK, BitVec.extractLsb'_toNat]

theorem toNat_fieldNNN (w : Word) : (fieldNNN w).toNat = w.toNat % 4096 := by
  simp [fieldNNN, BitVec.extractLsb'_toNat]

theorem toNat_wordXKK (k x : Nibble) (kk : Byte) :
    (wordXKK k x kk).toNat = k.toNat * 4096 + x.toNat * 256 + kk.toNat := by
  simp only [wordXKK, BitVec.toNat_ofNat]; omega

theorem toNat_wordXYN (k x y n : Nibble) :
    (wordXYN k x y n).toNat = k.toNat * 4096 + x.toNat * 256 + y.toNat * 16 + n.toNat := by
  simp only [wordXYN, BitVec.toNat_ofNat]; omega

theorem toNat_wordNNN (k : Nibble) (a : Addr) :
    (wordNNN k a).toNat = k.toNat * 4096 + a.toNat := by
  simp only [wordNNN, BitVec.toNat_ofNat]; omega

theorem fieldKind_wordXKK (k x : Nibble) (kk : Byte) : fieldKind (wordXKK k x kk) = k := by
  apply BitVec.eq_of_toNat_eq; rw [toNat_fieldKind, toNat_wordXKK]; omega

theorem fieldX_wordXKK (k x : Nibble) (kk : Byte) : fieldX (wordXKK k x kk) = x := by
  apply BitVec.eq_of_toNat_eq; rw [toNat_fieldX, toNat_wordXKK]; omega

theorem fieldKK_wordXKK (k x : Nibble) (kk : Byte) : fieldKK (wordXKK k x kk) = kk := by
  apply BitVec.eq_of_toNat_eq; rw [toNat_fieldKK, toNat_wordXKK]; omega

theorem fieldKind_wordXYN (k x y n : Nibble) : fieldKind (wordXYN k x y n) = k := by
  apply BitVec.eq_of_toNat_eq; rw [toNat_fieldKind, toNat_wordXYN]; omega

theorem fieldX_wordXYN (k x y n : Nibble) : fieldX (wordXYN k x y n) = x := by
  apply BitVec.eq_of_toNat_eq; rw [toNat_fieldX, toNat_wordXYN]; omega

theorem fieldY_wordXYN (k x y n : Nibble) : fieldY (wordXYN k x y n) = y := by
  apply BitVec.eq_of_toNat_eq; rw [toNat_fieldY, toNat_wordXYN]; omega

theorem fieldN_wordXYN (k x y n : Nibble) : fieldN (wordXYN k x y n) = n := by
  apply BitVec.eq_of_toNat_eq; rw [toNat_fieldN, toNat_wordXYN]; omega

theorem fieldKind_wordNNN (k : Nibble) (a : Addr) : fieldKind (wordNNN k a) = k := by
  apply BitVec.eq_of_toNat_eq; rw [toNat_fieldKind, toNat_wordNNN]; omega

theorem fieldNNN_wordNNN (k : Nibble) (a : Addr) : fieldNNN (wordNNN k a) = a := by
  apply BitVec.eq_of_toNat_eq; rw [toNat_fieldNNN, toNat_wordNNN]; omega

theorem wordXKK_fields (w : Word) : wordXKK (fieldKind w) (fieldX w) (fieldKK w) = w := by
  apply BitVec.eq_of_toNat_eq
  rw [toNat_wordXKK, toNat_fieldKind, toNat_fieldX, toNat_fieldKK]; omega

theorem wordXYN_fields (w : Word) : wordXYN (fieldKind w) (fieldX w) (fieldY w) (fieldN w) = w := by
  apply BitVec.eq_of_toNat_eq
  rw [toNat_wordXYN, toNat_fieldKind, toNat_fieldX, toNat_fieldY, toNat_fieldN]; omega

theorem wordNNN_fields (w : Word) : wordNNN (fieldKind w) (fieldNNN w) = w := by
  apply BitVec.eq_of_toNat_eq
  rw [toNat_wordNNN, toNat_fieldKind, toNat_fieldNNN]; omega

/-! ### Bytes of a word (20_memory.md R55) -/

theorem wordOfBytes_high_low (w : Word) : wordOfBytes (highByte w) (lowByte w) = w := by
  apply BitVec.eq_of_toNat_eq
  simp only [wordOfBytes, highByte, lowByte, BitVec.toNat_ofNat, BitVec.extractLsb'_toNat,
    Nat.shiftRight_eq_div_pow]
  omega

theorem highByte_wordOfBytes (a b : Byte) : highByte (wordOfBytes a b) = a := by
  apply BitVec.eq_of_toNat_eq
  simp only [wordOfBytes, highByte, BitVec.toNat_ofNat, BitVec.extractLsb'_toNat,
    Nat.shiftRight_eq_div_pow]
  omega

theorem lowByte_wordOfBytes (a b : Byte) : lowByte (wordOfBytes a b) = b := by
  apply BitVec.eq_of_toNat_eq
  simp only [wordOfBytes, lowByte, BitVec.toNat_ofNat, BitVec.extractLsb'_toNat,
    Nat.shiftRight_eq_div_pow]
  omega

/-! ### The three masks of the opcode map, as numbers -/

theorem and_low_bits (a k : Nat) : a &&& (2 ^ k - 1) = a % 2 ^ k := Nat.and_two_pow_sub_one_eq_mod a k

/-- `w &&& 0xF000` keeps the kind. -/
theorem toNat_and_kind (w : Word) : (w &&& 0xF000).toNat = w.toNat / 4096 * 4096 := by
  have hw := w.isLt
  rw [BitVec.toNat_and, show (0xF000 : Word).toNat = 0xF000 from rfl]
  have h1 : (w.toNat &&& 0xF000) / 2 ^ 12 = w.toNat / 2 ^ 12 % 2 ^ 4 := by
    rw [Nat.and_div_two_pow]; exact and_low_bits _ 4
  have h2 : (w.toNat &&& 0xF000) % 2 ^ 12 = 0 := by rw [Nat.and_mod_two_pow]; simp
  omega

/-- `w &&& 0xF00F` keeps the kind and `n`. -/
theorem toNat_and_kind_n (w : Word) :
    (w &&& 0xF00F).toNat = w.toNat / 4096 * 4096 + w.toNat % 16 := by
  have hw := w.isLt
  rw [BitVec.toNat_and, show (0xF00F : Word).toNat = 0xF00F from rfl]
  have h1 : (w.toNat &&& 0xF00F) / 2 ^ 12 = w.toNat / 2 ^ 12 % 2 ^ 4 := by
    rw [Nat.and_div_two_pow]; exact and_low_bits _ 4
  have h2 : (w.toNat &&& 0xF00F) / 2 ^ 4 % 2 ^ 8 = 0 := by
    rw [Nat.and_div_two_pow, Nat.and_mod_two_pow]; simp
  have h3 : (w.toNat &&& 0xF00F) % 2 ^ 4 = w.toNat % 2 ^ 4 % 2 ^ 4 := by
    rw [Nat.and_mod_two_pow]; exact and_low_bits _ 4
  omega

/-- `w &&& 0xF0FF` keeps the kind and `kk`. -/
theorem toNat_and_kind_kk (w : Word) :
    (w &&& 0xF0FF).toNat = w.toNat / 4096 * 4096 + w.toNat % 256 := by
  have hw := w.isLt
  rw [BitVec.toNat_and, show (0xF0FF : Word).toNat = 0xF0FF from rfl]
  have h1 : (w.toNat &&& 0xF0FF) / 2 ^ 12 = w.toNat / 2 ^ 12 % 2 ^ 4 := by
    rw [Nat.and_div_two_pow]; exact and_low_bits _ 4
  have h2 : (w.toNat &&& 0xF0FF) / 2 ^ 8 % 2 ^ 4 = 0 := by
    rw [Nat.and_div_two_pow, Nat.and_mod_two_pow]; simp
  have h3 : (w.toNat &&& 0xF0FF) % 2 ^ 8 = w.toNat % 2 ^ 8 % 2 ^ 8 := by
    rw [Nat.and_mod_two_pow]; exact and_low_bits _ 8
  omega

end Sys2Proof
end

