-- ==== Sys2Proof/Laws/Framebuffer.lean ====
section
/-! SUPPORT. What clearing the screen and plotting one sprite bit do to one pixel. -/

namespace Sys2Proof.Machine

@[simp] theorem Framebuffer.pixel_off (c r : Nat) : Framebuffer.off.pixel c r = false := by
  unfold Framebuffer.pixel Framebuffer.off; split <;> simp

/-- A framebuffer is its pixels. -/
theorem Framebuffer.ext_pixel {v u : Framebuffer}
    (h : ∀ c r, c < 64 → r < 32 → v.pixel c r = u.pixel c r) : v = u := by
  ext r hr c hc
  have := h c r hc hr
  unfold Framebuffer.pixel at this
  rw [dif_pos ⟨hc, hr⟩, dif_pos ⟨hc, hr⟩] at this
  simpa using this

/-- One plotted bit toggles its pixel, if that is on screen, and no other. -/
theorem pixel_plotBit (px py : Nat) (bit : Bool) (acc : Framebuffer × Bool) (c r : Nat)
    (hc : c < 64) (hr : r < 32) : (plotBit px py bit acc).1.pixel c r =
      (acc.1.pixel c r ^^ (bit && decide (c = px ∧ r = py))) := by
  unfold plotBit
  split
  · next h =>
    cases bit with
    | false => simp
    | true =>
      simp only [if_true, Bool.true_and, Framebuffer.pixel, hc, hr, and_self, dite_true]
      by_cases h1 : r = py
      · subst h1
        by_cases h2 : c = px
        · subst h2; simp
        · simp [Vector.getElem_set_ne _ _ (Ne.symm h2), h2]
      · simp [Vector.getElem_set_ne _ _ (Ne.symm h1), h1]
  · next h =>
    have : ¬ (c = px ∧ r = py) := by rintro ⟨rfl, rfl⟩; exact h ⟨hc, hr⟩
    simp [this]

/-- A hit is a plotted 1-bit on an on-pixel. -/
theorem hit_plotBit (px py : Nat) (bit : Bool) (acc : Framebuffer × Bool) :
    (plotBit px py bit acc).2 = (acc.2 || (bit && acc.1.pixel px py)) := by
  unfold plotBit Framebuffer.pixel
  split <;> cases bit <;> simp

end Sys2Proof.Machine
end

