-- ==== Sys2Proof/Laws/Memory.lean ====
section
/-! SUPPORT. The laws of memory: a read after a write (with no premise on the form of the list), the
canonical form and the address range kept by every operation, and canonical memories that read the
same are the same list. -/

namespace Sys2Proof.Machine

/-! ### Reading after one write -/

theorem Memory.read_erase (m : Memory) (a b : Nat) :
    (m.erase a).read b = if b = a then unlistedByte else m.read b := by
  induction m with
  | nil => simp [Memory.erase, Memory.read]
  | cons c m ih =>
    unfold Memory.erase at ih ⊢
    by_cases hc : c.1 = a
    · simp only [List.filter_cons, hc, ne_eq, not_true_eq_false, decide_false, Bool.false_eq_true,
        if_false, ih, Memory.read]
      split
      · rfl
      · next h => simp [Ne.symm h]
    · simp only [List.filter_cons, ne_eq, hc, not_false_eq_true, decide_true, if_true, Memory.read, ih]
      by_cases hb : c.1 = b
      · subst hb; simp [hc]
      · simp [hb]

theorem Memory.read_insertCell (m : Memory) (a b : Nat) (v : Byte) (h : m.read a = unlistedByte)
    (ha : ∀ c ∈ m, c.1 ≠ a) : (m.insertCell a v).read b = if b = a then v else m.read b := by
  induction m with
  | nil => simp [Memory.insertCell, Memory.read, eq_comm]
  | cons c m ih =>
    have hc : c.1 ≠ a := ha c (by simp)
    unfold Memory.insertCell
    split
    · simp only [Memory.read, eq_comm]
    · have h' : Memory.read m a = unlistedByte := by simpa [Memory.read, hc] using h
      rw [Memory.read, Memory.read, ih h' fun d hd => ha d (by simp [hd])]
      by_cases hb : c.1 = b
      · subst hb; simp [hc]
      · simp [hb]

theorem Memory.ne_of_mem_erase {m : Memory} {a : Nat} {c : Host.Cell} (h : c ∈ m.erase a) :
    c.1 ≠ a := by simpa using (List.mem_filter.mp h).2

/-- Memory holds what was last written (20_memory.md R58). -/
theorem Memory.read_write (m : Memory) (a b : Nat) (v : Byte) :
    (m.write a v).read b = if b = a then v else m.read b := by
  unfold Memory.write
  split
  · next h => rw [Memory.read_erase, h]
  · rw [Memory.read_insertCell _ _ _ _ (by simp [Memory.read_erase])
      fun c hc => Memory.ne_of_mem_erase hc, Memory.read_erase]
    split <;> simp_all

@[simp] theorem Memory.read_write_same (m : Memory) (a : Nat) (v : Byte) :
    (m.write a v).read a = v := by simp [Memory.read_write]

theorem Memory.read_write_other (m : Memory) {a b : Nat} (v : Byte) (h : b ≠ a) :
    (m.write a v).read b = m.read b := by simp [Memory.read_write, h]

/-! ### Reading after several writes -/

theorem Memory.read_writeBytes_outside (m : Memory) (a b : Nat) (vs : List Byte)
    (h : b < a ∨ a + vs.length ≤ b) : (m.writeBytes a vs).read b = m.read b := by
  induction vs generalizing m a with
  | nil => rfl
  | cons v vs ih =>
    simp only [List.length_cons] at h
    rw [Memory.writeBytes, ih _ _ (by omega), Memory.read_write_other _ _ (by omega)]

theorem Memory.read_writeBytes_inside (m : Memory) (a k : Nat) (vs : List Byte)
    (h : k < vs.length) : (m.writeBytes a vs).read (a + k) = vs[k] := by
  induction vs generalizing m a k with
  | nil => simp at h
  | cons v vs ih =>
    rw [Memory.writeBytes]
    cases k with
    | zero => rw [Memory.read_writeBytes_outside _ _ _ _ (by omega)]; simp
    | succ k =>
      have e : a + (k + 1) = a + 1 + k := by omega
      rw [e, ih _ _ _ (by simpa using h)]; rfl

@[simp] theorem Memory.length_readBytes (m : Memory) (a n : Nat) : (m.readBytes a n).length = n := by
  induction n generalizing a with
  | zero => rfl
  | succ n ih => simp [Memory.readBytes, ih]

theorem Memory.getElem_readBytes (m : Memory) (a n k : Nat) (h : k < (m.readBytes a n).length) :
    (m.readBytes a n)[k] = m.read (a + k) := by
  induction n generalizing a k with
  | zero => simp at h
  | succ n ih =>
    cases k with
    | zero => simp [Memory.readBytes]
    | succ k =>
      simp only [Memory.readBytes, List.getElem_cons_succ]
      rw [ih]; congr 1; omega

/-! ### The canonical form is kept -/

theorem Memory.wf_iff (m : Memory) :
    m.wf = true ↔ (∀ c ∈ m, c.2 ≠ unlistedByte) ∧ m.Pairwise fun c d => c.1 < d.1 := by
  induction m with
  | nil => simp [Memory.wf]
  | cons c m ih =>
    cases m with
    | nil => simp [Memory.wf]
    | cons d m =>
      simp only [Memory.wf, Bool.and_eq_true, decide_eq_true_eq, ih, List.pairwise_cons,
        List.mem_cons, forall_eq_or_imp]
      constructor
      · rintro ⟨⟨h1, h2⟩, ⟨h3, h4⟩, h5, h6⟩
        exact ⟨⟨h1, h3, h4⟩, ⟨h2, fun e he => Nat.lt_trans h2 (h5 e he)⟩, h5, h6⟩
      · rintro ⟨⟨h1, h3, h4⟩, ⟨h2, _⟩, h5, h6⟩
        exact ⟨⟨h1, h2⟩, ⟨h3, h4⟩, h5, h6⟩

theorem Memory.mem_insertCell {m : Memory} {a : Nat} {v : Byte} {c : Host.Cell} :
    c ∈ m.insertCell a v ↔ c = (a, v) ∨ c ∈ m := by
  induction m with
  | nil => simp [Memory.insertCell]
  | cons d m ih =>
    unfold Memory.insertCell
    split
    · simp
    · simp only [List.mem_cons, ih]; tauto

theorem Memory.wf_erase {m : Memory} (h : m.wf = true) (a : Nat) : (m.erase a).wf = true := by
  rw [Memory.wf_iff] at h ⊢
  exact ⟨fun c hc => h.1 c (List.mem_of_mem_filter hc), h.2.filter _⟩

theorem Memory.wf_insertCell {m : Memory} {a : Nat} {v : Byte} (h : m.wf = true)
    (ha : ∀ c ∈ m, c.1 ≠ a) (hv : v ≠ unlistedByte) : (m.insertCell a v).wf = true := by
  rw [Memory.wf_iff] at h ⊢
  refine ⟨fun c hc => ?_, ?_⟩
  · rcases Memory.mem_insertCell.mp hc with rfl | hc
    · exact hv
    · exact h.1 c hc
  · have hp := h.2
    clear h
    induction m with
    | nil => simp [Memory.insertCell]
    | cons d m ih =>
      have hd : d.1 ≠ a := ha d (by simp)
      rw [List.pairwise_cons] at hp
      unfold Memory.insertCell
      split
      · next hlt =>
        refine List.pairwise_cons.mpr ⟨fun e he => ?_, List.pairwise_cons.mpr hp⟩
        rcases List.mem_cons.mp he with rfl | he
        · exact hlt
        · exact Nat.lt_trans hlt (hp.1 e he)
      · refine List.pairwise_cons.mpr ⟨fun e he => ?_, ih (fun c hc => ha c (by simp [hc])) hp.2⟩
        rcases Memory.mem_insertCell.mp he with rfl | he
        · show d.1 < a; omega
        · exact hp.1 e he

/-- Every write keeps the canonical form. -/
theorem Memory.wf_write {m : Memory} (h : m.wf = true) (a : Nat) (v : Byte) :
    (m.write a v).wf = true := by
  unfold Memory.write
  split
  · exact Memory.wf_erase h a
  · next hv => exact Memory.wf_insertCell (Memory.wf_erase h a) (fun c hc => Memory.ne_of_mem_erase hc) hv

theorem Memory.wf_writeBytes {m : Memory} (h : m.wf = true) (a : Nat) (vs : List Byte) :
    (m.writeBytes a vs).wf = true := by
  induction vs generalizing m a with
  | nil => exact h
  | cons v vs ih => exact ih (Memory.wf_write h a v) (a + 1)

/-! ### The address range is kept -/

theorem Memory.inRange_iff (m : Memory) : m.inRange = true ↔ ∀ c ∈ m, c.1 < memSize := by
  simp [Memory.inRange]

theorem Memory.inRange_write {m : Memory} (h : m.inRange = true) {a : Nat} (ha : a < memSize)
    (v : Byte) : (m.write a v).inRange = true := by
  rw [Memory.inRange_iff] at h ⊢
  intro c hc
  unfold Memory.write at hc
  split at hc
  · exact h c (List.mem_of_mem_filter hc)
  · rcases Memory.mem_insertCell.mp hc with rfl | hc
    · exact ha
    · exact h c (List.mem_of_mem_filter hc)

theorem Memory.inRange_writeBytes {m : Memory} (h : m.inRange = true) (a : Nat) (vs : List Byte)
    (ha : vs = [] ∨ a + vs.length ≤ memSize) : (m.writeBytes a vs).inRange = true := by
  induction vs generalizing m a with
  | nil => exact h
  | cons v vs ih =>
    have ha : a + (vs.length + 1) ≤ memSize := by simpa using ha
    exact ih (Memory.inRange_write h (by omega) v) (a + 1) (.inr (by omega))

/-! ### Equal memories are equal data -/

theorem Memory.read_eq_of_lt {m : Memory} {a : Nat} (h : ∀ c ∈ m, a < c.1) :
    m.read a = unlistedByte := by
  induction m with
  | nil => rfl
  | cons c m ih =>
    have : c.1 ≠ a := Nat.ne_of_gt (h c (by simp))
    simp [Memory.read, this, ih fun d hd => h d (by simp [hd])]

/-- Canonical memories that read the same everywhere are the same list. -/
theorem Memory.eq_of_read_eq {m k : Memory} (hm : m.wf = true) (hk : k.wf = true)
    (h : ∀ a, m.read a = k.read a) : m = k := by
  rw [Memory.wf_iff] at hm hk
  induction m generalizing k with
  | nil =>
    cases k with
    | nil => rfl
    | cons d k =>
      have := h d.1
      simp only [Memory.read, if_true] at this
      exact absurd this.symm (hk.1 d (by simp))
  | cons c m ih =>
    cases k with
    | nil =>
      have := h c.1
      simp only [Memory.read, if_true] at this
      exact absurd this (hm.1 c (by simp))
    | cons d k =>
      obtain ⟨hm1, hm2⟩ := hm
      obtain ⟨hk1, hk2⟩ := hk
      rw [List.pairwise_cons] at hm2 hk2
      have hcd : c.1 = d.1 := by
        rcases Nat.lt_trichotomy c.1 d.1 with hlt | heq | hgt
        · have e := h c.1
          rw [Memory.read_eq_of_lt (m := d :: k)] at e
          · simp only [Memory.read, if_true] at e
            exact absurd e (hm1 c (by simp))
          · intro x hx
            rcases List.mem_cons.mp hx with rfl | hx
            · exact hlt
            · exact Nat.lt_trans hlt (hk2.1 x hx)
        · exact heq
        · have e := h d.1
          rw [Memory.read_eq_of_lt (m := c :: m)] at e
          · simp only [Memory.read, if_true] at e
            exact absurd e.symm (hk1 d (by simp))
          · intro x hx
            rcases List.mem_cons.mp hx with rfl | hx
            · exact hgt
            · exact Nat.lt_trans hgt (hm2.1 x hx)
      have hv : c.2 = d.2 := by
        have e := h c.1
        simpa [Memory.read, hcd] using e
      have hrest : m = k := by
        refine ih ⟨fun x hx => hm1 x (by simp [hx]), hm2.2⟩ ⟨fun x hx => hk1 x (by simp [hx]), hk2.2⟩ ?_
        intro a
        have e := h a
        simp only [Memory.read, hcd] at e
        by_cases ha : d.1 = a
        · subst ha
          rw [Memory.read_eq_of_lt hk2.1, Memory.read_eq_of_lt (by rw [← hcd]; exact hm2.1)]
        · simpa [ha] using e
      rw [hrest, Prod.ext hcd hv]

end Sys2Proof.Machine
end

