-- ==== Sys2Proof/Laws/State.lean ====
section
/-! SUPPORT. One lemma per field of `State` per update, so that no later proof unfolds a record
update. -/

namespace Sys2Proof.Machine

variable (s : State)

/-! ### setReg -/

@[simp] theorem State.setReg_V (r : Reg) (v : Byte) : (s.setReg r v).V = s.V.set r.val v := rfl
@[simp] theorem State.setReg_I (r : Reg) (v : Byte) : (s.setReg r v).I = s.I := rfl
@[simp] theorem State.setReg_pc (r : Reg) (v : Byte) : (s.setReg r v).pc = s.pc := rfl
@[simp] theorem State.setReg_stack (r : Reg) (v : Byte) : (s.setReg r v).stack = s.stack := rfl
@[simp] theorem State.setReg_sp (r : Reg) (v : Byte) : (s.setReg r v).sp = s.sp := rfl
@[simp] theorem State.setReg_DT (r : Reg) (v : Byte) : (s.setReg r v).DT = s.DT := rfl
@[simp] theorem State.setReg_ST (r : Reg) (v : Byte) : (s.setReg r v).ST = s.ST := rfl
@[simp] theorem State.setReg_keypad (r : Reg) (v : Byte) : (s.setReg r v).keypad = s.keypad := rfl
@[simp] theorem State.setReg_video (r : Reg) (v : Byte) : (s.setReg r v).video = s.video := rfl
@[simp] theorem State.setReg_mem (r : Reg) (v : Byte) : (s.setReg r v).mem = s.mem := rfl
@[simp] theorem State.setReg_status (r : Reg) (v : Byte) : (s.setReg r v).status = s.status := rfl
@[simp] theorem State.setReg_phase (r : Reg) (v : Byte) : (s.setReg r v).phase = s.phase := rfl
@[simp] theorem State.setReg_fontLoaded (r : Reg) (v : Byte) : (s.setReg r v).fontLoaded = s.fontLoaded := rfl
@[simp] theorem State.setReg_romLoaded (r : Reg) (v : Byte) : (s.setReg r v).romLoaded = s.romLoaded := rfl
@[simp] theorem State.setReg_rnd (r : Reg) (v : Byte) : (s.setReg r v).rnd = s.rnd := rfl
@[simp] theorem State.setReg_draws (r : Reg) (v : Byte) : (s.setReg r v).draws = s.draws := rfl
@[simp] theorem State.setReg_params (r : Reg) (v : Byte) : (s.setReg r v).params = s.params := rfl

@[simp] theorem State.setReg_readByte (r : Reg) (v : Byte) (k : Nat) : (s.setReg r v).readByte k = s.readByte k := rfl

/-! ### setI -/

@[simp] theorem State.setI_V (v : Word) : (s.setI v).V = s.V := rfl
@[simp] theorem State.setI_I (v : Word) : (s.setI v).I = v := rfl
@[simp] theorem State.setI_pc (v : Word) : (s.setI v).pc = s.pc := rfl
@[simp] theorem State.setI_stack (v : Word) : (s.setI v).stack = s.stack := rfl
@[simp] theorem State.setI_sp (v : Word) : (s.setI v).sp = s.sp := rfl
@[simp] theorem State.setI_DT (v : Word) : (s.setI v).DT = s.DT := rfl
@[simp] theorem State.setI_ST (v : Word) : (s.setI v).ST = s.ST := rfl
@[simp] theorem State.setI_keypad (v : Word) : (s.setI v).keypad = s.keypad := rfl
@[simp] theorem State.setI_video (v : Word) : (s.setI v).video = s.video := rfl
@[simp] theorem State.setI_mem (v : Word) : (s.setI v).mem = s.mem := rfl
@[simp] theorem State.setI_status (v : Word) : (s.setI v).status = s.status := rfl
@[simp] theorem State.setI_phase (v : Word) : (s.setI v).phase = s.phase := rfl
@[simp] theorem State.setI_fontLoaded (v : Word) : (s.setI v).fontLoaded = s.fontLoaded := rfl
@[simp] theorem State.setI_romLoaded (v : Word) : (s.setI v).romLoaded = s.romLoaded := rfl
@[simp] theorem State.setI_rnd (v : Word) : (s.setI v).rnd = s.rnd := rfl
@[simp] theorem State.setI_draws (v : Word) : (s.setI v).draws = s.draws := rfl
@[simp] theorem State.setI_params (v : Word) : (s.setI v).params = s.params := rfl

@[simp] theorem State.setI_reg (v : Word) (q : Reg) : (s.setI v).reg q = s.reg q := rfl
@[simp] theorem State.setI_readByte (v : Word) (k : Nat) : (s.setI v).readByte k = s.readByte k := rfl

/-! ### setPc -/

@[simp] theorem State.setPc_V (v : Word) : (s.setPc v).V = s.V := rfl
@[simp] theorem State.setPc_I (v : Word) : (s.setPc v).I = s.I := rfl
@[simp] theorem State.setPc_pc (v : Word) : (s.setPc v).pc = v := rfl
@[simp] theorem State.setPc_stack (v : Word) : (s.setPc v).stack = s.stack := rfl
@[simp] theorem State.setPc_sp (v : Word) : (s.setPc v).sp = s.sp := rfl
@[simp] theorem State.setPc_DT (v : Word) : (s.setPc v).DT = s.DT := rfl
@[simp] theorem State.setPc_ST (v : Word) : (s.setPc v).ST = s.ST := rfl
@[simp] theorem State.setPc_keypad (v : Word) : (s.setPc v).keypad = s.keypad := rfl
@[simp] theorem State.setPc_video (v : Word) : (s.setPc v).video = s.video := rfl
@[simp] theorem State.setPc_mem (v : Word) : (s.setPc v).mem = s.mem := rfl
@[simp] theorem State.setPc_status (v : Word) : (s.setPc v).status = s.status := rfl
@[simp] theorem State.setPc_phase (v : Word) : (s.setPc v).phase = s.phase := rfl
@[simp] theorem State.setPc_fontLoaded (v : Word) : (s.setPc v).fontLoaded = s.fontLoaded := rfl
@[simp] theorem State.setPc_romLoaded (v : Word) : (s.setPc v).romLoaded = s.romLoaded := rfl
@[simp] theorem State.setPc_rnd (v : Word) : (s.setPc v).rnd = s.rnd := rfl
@[simp] theorem State.setPc_draws (v : Word) : (s.setPc v).draws = s.draws := rfl
@[simp] theorem State.setPc_params (v : Word) : (s.setPc v).params = s.params := rfl

@[simp] theorem State.setPc_reg (v : Word) (q : Reg) : (s.setPc v).reg q = s.reg q := rfl
@[simp] theorem State.setPc_readByte (v : Word) (k : Nat) : (s.setPc v).readByte k = s.readByte k := rfl

/-! ### setDT -/

@[simp] theorem State.setDT_V (v : Byte) : (s.setDT v).V = s.V := rfl
@[simp] theorem State.setDT_I (v : Byte) : (s.setDT v).I = s.I := rfl
@[simp] theorem State.setDT_pc (v : Byte) : (s.setDT v).pc = s.pc := rfl
@[simp] theorem State.setDT_stack (v : Byte) : (s.setDT v).stack = s.stack := rfl
@[simp] theorem State.setDT_sp (v : Byte) : (s.setDT v).sp = s.sp := rfl
@[simp] theorem State.setDT_DT (v : Byte) : (s.setDT v).DT = v := rfl
@[simp] theorem State.setDT_ST (v : Byte) : (s.setDT v).ST = s.ST := rfl
@[simp] theorem State.setDT_keypad (v : Byte) : (s.setDT v).keypad = s.keypad := rfl
@[simp] theorem State.setDT_video (v : Byte) : (s.setDT v).video = s.video := rfl
@[simp] theorem State.setDT_mem (v : Byte) : (s.setDT v).mem = s.mem := rfl
@[simp] theorem State.setDT_status (v : Byte) : (s.setDT v).status = s.status := rfl
@[simp] theorem State.setDT_phase (v : Byte) : (s.setDT v).phase = s.phase := rfl
@[simp] theorem State.setDT_fontLoaded (v : Byte) : (s.setDT v).fontLoaded = s.fontLoaded := rfl
@[simp] theorem State.setDT_romLoaded (v : Byte) : (s.setDT v).romLoaded = s.romLoaded := rfl
@[simp] theorem State.setDT_rnd (v : Byte) : (s.setDT v).rnd = s.rnd := rfl
@[simp] theorem State.setDT_draws (v : Byte) : (s.setDT v).draws = s.draws := rfl
@[simp] theorem State.setDT_params (v : Byte) : (s.setDT v).params = s.params := rfl

@[simp] theorem State.setDT_reg (v : Byte) (q : Reg) : (s.setDT v).reg q = s.reg q := rfl
@[simp] theorem State.setDT_readByte (v : Byte) (k : Nat) : (s.setDT v).readByte k = s.readByte k := rfl

/-! ### setST -/

@[simp] theorem State.setST_V (v : Byte) : (s.setST v).V = s.V := rfl
@[simp] theorem State.setST_I (v : Byte) : (s.setST v).I = s.I := rfl
@[simp] theorem State.setST_pc (v : Byte) : (s.setST v).pc = s.pc := rfl
@[simp] theorem State.setST_stack (v : Byte) : (s.setST v).stack = s.stack := rfl
@[simp] theorem State.setST_sp (v : Byte) : (s.setST v).sp = s.sp := rfl
@[simp] theorem State.setST_DT (v : Byte) : (s.setST v).DT = s.DT := rfl
@[simp] theorem State.setST_ST (v : Byte) : (s.setST v).ST = v := rfl
@[simp] theorem State.setST_keypad (v : Byte) : (s.setST v).keypad = s.keypad := rfl
@[simp] theorem State.setST_video (v : Byte) : (s.setST v).video = s.video := rfl
@[simp] theorem State.setST_mem (v : Byte) : (s.setST v).mem = s.mem := rfl
@[simp] theorem State.setST_status (v : Byte) : (s.setST v).status = s.status := rfl
@[simp] theorem State.setST_phase (v : Byte) : (s.setST v).phase = s.phase := rfl
@[simp] theorem State.setST_fontLoaded (v : Byte) : (s.setST v).fontLoaded = s.fontLoaded := rfl
@[simp] theorem State.setST_romLoaded (v : Byte) : (s.setST v).romLoaded = s.romLoaded := rfl
@[simp] theorem State.setST_rnd (v : Byte) : (s.setST v).rnd = s.rnd := rfl
@[simp] theorem State.setST_draws (v : Byte) : (s.setST v).draws = s.draws := rfl
@[simp] theorem State.setST_params (v : Byte) : (s.setST v).params = s.params := rfl

@[simp] theorem State.setST_reg (v : Byte) (q : Reg) : (s.setST v).reg q = s.reg q := rfl
@[simp] theorem State.setST_readByte (v : Byte) (k : Nat) : (s.setST v).readByte k = s.readByte k := rfl

/-! ### setVideo -/

@[simp] theorem State.setVideo_V (v : Framebuffer) : (s.setVideo v).V = s.V := rfl
@[simp] theorem State.setVideo_I (v : Framebuffer) : (s.setVideo v).I = s.I := rfl
@[simp] theorem State.setVideo_pc (v : Framebuffer) : (s.setVideo v).pc = s.pc := rfl
@[simp] theorem State.setVideo_stack (v : Framebuffer) : (s.setVideo v).stack = s.stack := rfl
@[simp] theorem State.setVideo_sp (v : Framebuffer) : (s.setVideo v).sp = s.sp := rfl
@[simp] theorem State.setVideo_DT (v : Framebuffer) : (s.setVideo v).DT = s.DT := rfl
@[simp] theorem State.setVideo_ST (v : Framebuffer) : (s.setVideo v).ST = s.ST := rfl
@[simp] theorem State.setVideo_keypad (v : Framebuffer) : (s.setVideo v).keypad = s.keypad := rfl
@[simp] theorem State.setVideo_video (v : Framebuffer) : (s.setVideo v).video = v := rfl
@[simp] theorem State.setVideo_mem (v : Framebuffer) : (s.setVideo v).mem = s.mem := rfl
@[simp] theorem State.setVideo_status (v : Framebuffer) : (s.setVideo v).status = s.status := rfl
@[simp] theorem State.setVideo_phase (v : Framebuffer) : (s.setVideo v).phase = s.phase := rfl
@[simp] theorem State.setVideo_fontLoaded (v : Framebuffer) : (s.setVideo v).fontLoaded = s.fontLoaded := rfl
@[simp] theorem State.setVideo_romLoaded (v : Framebuffer) : (s.setVideo v).romLoaded = s.romLoaded := rfl
@[simp] theorem State.setVideo_rnd (v : Framebuffer) : (s.setVideo v).rnd = s.rnd := rfl
@[simp] theorem State.setVideo_draws (v : Framebuffer) : (s.setVideo v).draws = s.draws := rfl
@[simp] theorem State.setVideo_params (v : Framebuffer) : (s.setVideo v).params = s.params := rfl

@[simp] theorem State.setVideo_reg (v : Framebuffer) (q : Reg) : (s.setVideo v).reg q = s.reg q := rfl
@[simp] theorem State.setVideo_readByte (v : Framebuffer) (k : Nat) : (s.setVideo v).readByte k = s.readByte k := rfl

/-! ### advancePc -/

@[simp] theorem State.advancePc_V : s.advancePc.V = s.V := rfl
@[simp] theorem State.advancePc_I : s.advancePc.I = s.I := rfl
@[simp] theorem State.advancePc_pc : s.advancePc.pc = s.pc + 2 := rfl
@[simp] theorem State.advancePc_stack : s.advancePc.stack = s.stack := rfl
@[simp] theorem State.advancePc_sp : s.advancePc.sp = s.sp := rfl
@[simp] theorem State.advancePc_DT : s.advancePc.DT = s.DT := rfl
@[simp] theorem State.advancePc_ST : s.advancePc.ST = s.ST := rfl
@[simp] theorem State.advancePc_keypad : s.advancePc.keypad = s.keypad := rfl
@[simp] theorem State.advancePc_video : s.advancePc.video = s.video := rfl
@[simp] theorem State.advancePc_mem : s.advancePc.mem = s.mem := rfl
@[simp] theorem State.advancePc_status : s.advancePc.status = s.status := rfl
@[simp] theorem State.advancePc_phase : s.advancePc.phase = s.phase := rfl
@[simp] theorem State.advancePc_fontLoaded : s.advancePc.fontLoaded = s.fontLoaded := rfl
@[simp] theorem State.advancePc_romLoaded : s.advancePc.romLoaded = s.romLoaded := rfl
@[simp] theorem State.advancePc_rnd : s.advancePc.rnd = s.rnd := rfl
@[simp] theorem State.advancePc_draws : s.advancePc.draws = s.draws := rfl
@[simp] theorem State.advancePc_params : s.advancePc.params = s.params := rfl

@[simp] theorem State.advancePc_reg (q : Reg) : s.advancePc.reg q = s.reg q := rfl
@[simp] theorem State.advancePc_readByte (k : Nat) : s.advancePc.readByte k = s.readByte k := rfl

/-! ### rewindPc -/

@[simp] theorem State.rewindPc_V : s.rewindPc.V = s.V := rfl
@[simp] theorem State.rewindPc_I : s.rewindPc.I = s.I := rfl
@[simp] theorem State.rewindPc_pc : s.rewindPc.pc = s.pc - 2 := rfl
@[simp] theorem State.rewindPc_stack : s.rewindPc.stack = s.stack := rfl
@[simp] theorem State.rewindPc_sp : s.rewindPc.sp = s.sp := rfl
@[simp] theorem State.rewindPc_DT : s.rewindPc.DT = s.DT := rfl
@[simp] theorem State.rewindPc_ST : s.rewindPc.ST = s.ST := rfl
@[simp] theorem State.rewindPc_keypad : s.rewindPc.keypad = s.keypad := rfl
@[simp] theorem State.rewindPc_video : s.rewindPc.video = s.video := rfl
@[simp] theorem State.rewindPc_mem : s.rewindPc.mem = s.mem := rfl
@[simp] theorem State.rewindPc_status : s.rewindPc.status = s.status := rfl
@[simp] theorem State.rewindPc_phase : s.rewindPc.phase = s.phase := rfl
@[simp] theorem State.rewindPc_fontLoaded : s.rewindPc.fontLoaded = s.fontLoaded := rfl
@[simp] theorem State.rewindPc_romLoaded : s.rewindPc.romLoaded = s.romLoaded := rfl
@[simp] theorem State.rewindPc_rnd : s.rewindPc.rnd = s.rnd := rfl
@[simp] theorem State.rewindPc_draws : s.rewindPc.draws = s.draws := rfl
@[simp] theorem State.rewindPc_params : s.rewindPc.params = s.params := rfl

@[simp] theorem State.rewindPc_reg (q : Reg) : s.rewindPc.reg q = s.reg q := rfl
@[simp] theorem State.rewindPc_readByte (k : Nat) : s.rewindPc.readByte k = s.readByte k := rfl

/-! ### storeBytes -/

@[simp] theorem State.storeBytes_V (a : Nat) (vs : List Byte) : (s.storeBytes a vs).V = s.V := rfl
@[simp] theorem State.storeBytes_I (a : Nat) (vs : List Byte) : (s.storeBytes a vs).I = s.I := rfl
@[simp] theorem State.storeBytes_pc (a : Nat) (vs : List Byte) : (s.storeBytes a vs).pc = s.pc := rfl
@[simp] theorem State.storeBytes_stack (a : Nat) (vs : List Byte) : (s.storeBytes a vs).stack = s.stack := rfl
@[simp] theorem State.storeBytes_sp (a : Nat) (vs : List Byte) : (s.storeBytes a vs).sp = s.sp := rfl
@[simp] theorem State.storeBytes_DT (a : Nat) (vs : List Byte) : (s.storeBytes a vs).DT = s.DT := rfl
@[simp] theorem State.storeBytes_ST (a : Nat) (vs : List Byte) : (s.storeBytes a vs).ST = s.ST := rfl
@[simp] theorem State.storeBytes_keypad (a : Nat) (vs : List Byte) : (s.storeBytes a vs).keypad = s.keypad := rfl
@[simp] theorem State.storeBytes_video (a : Nat) (vs : List Byte) : (s.storeBytes a vs).video = s.video := rfl
@[simp] theorem State.storeBytes_mem (a : Nat) (vs : List Byte) : (s.storeBytes a vs).mem = s.mem.writeBytes a vs := rfl
@[simp] theorem State.storeBytes_status (a : Nat) (vs : List Byte) : (s.storeBytes a vs).status = s.status := rfl
@[simp] theorem State.storeBytes_phase (a : Nat) (vs : List Byte) : (s.storeBytes a vs).phase = s.phase := rfl
@[simp] theorem State.storeBytes_fontLoaded (a : Nat) (vs : List Byte) : (s.storeBytes a vs).fontLoaded = s.fontLoaded := rfl
@[simp] theorem State.storeBytes_romLoaded (a : Nat) (vs : List Byte) : (s.storeBytes a vs).romLoaded = s.romLoaded := rfl
@[simp] theorem State.storeBytes_rnd (a : Nat) (vs : List Byte) : (s.storeBytes a vs).rnd = s.rnd := rfl
@[simp] theorem State.storeBytes_draws (a : Nat) (vs : List Byte) : (s.storeBytes a vs).draws = s.draws := rfl
@[simp] theorem State.storeBytes_params (a : Nat) (vs : List Byte) : (s.storeBytes a vs).params = s.params := rfl

@[simp] theorem State.storeBytes_reg (a : Nat) (vs : List Byte) (q : Reg) : (s.storeBytes a vs).reg q = s.reg q := rfl

/-! ### raiseFatal -/

@[simp] theorem State.raiseFatal_V (f : FaultRecord) : (s.raiseFatal f).V = s.V := rfl
@[simp] theorem State.raiseFatal_I (f : FaultRecord) : (s.raiseFatal f).I = s.I := rfl
@[simp] theorem State.raiseFatal_pc (f : FaultRecord) : (s.raiseFatal f).pc = s.pc := rfl
@[simp] theorem State.raiseFatal_stack (f : FaultRecord) : (s.raiseFatal f).stack = s.stack := rfl
@[simp] theorem State.raiseFatal_sp (f : FaultRecord) : (s.raiseFatal f).sp = s.sp := rfl
@[simp] theorem State.raiseFatal_DT (f : FaultRecord) : (s.raiseFatal f).DT = s.DT := rfl
@[simp] theorem State.raiseFatal_ST (f : FaultRecord) : (s.raiseFatal f).ST = s.ST := rfl
@[simp] theorem State.raiseFatal_keypad (f : FaultRecord) : (s.raiseFatal f).keypad = s.keypad := rfl
@[simp] theorem State.raiseFatal_video (f : FaultRecord) : (s.raiseFatal f).video = s.video := rfl
@[simp] theorem State.raiseFatal_mem (f : FaultRecord) : (s.raiseFatal f).mem = s.mem := rfl
@[simp] theorem State.raiseFatal_status (f : FaultRecord) : (s.raiseFatal f).status = .halted f := rfl
@[simp] theorem State.raiseFatal_phase (f : FaultRecord) : (s.raiseFatal f).phase = s.phase := rfl
@[simp] theorem State.raiseFatal_fontLoaded (f : FaultRecord) : (s.raiseFatal f).fontLoaded = s.fontLoaded := rfl
@[simp] theorem State.raiseFatal_romLoaded (f : FaultRecord) : (s.raiseFatal f).romLoaded = s.romLoaded := rfl
@[simp] theorem State.raiseFatal_rnd (f : FaultRecord) : (s.raiseFatal f).rnd = s.rnd := rfl
@[simp] theorem State.raiseFatal_draws (f : FaultRecord) : (s.raiseFatal f).draws = s.draws := rfl
@[simp] theorem State.raiseFatal_params (f : FaultRecord) : (s.raiseFatal f).params = s.params := rfl

@[simp] theorem State.raiseFatal_reg (f : FaultRecord) (q : Reg) : (s.raiseFatal f).reg q = s.reg q := rfl
@[simp] theorem State.raiseFatal_readByte (f : FaultRecord) (k : Nat) : (s.raiseFatal f).readByte k = s.readByte k := rfl

/-! ### loadRegBlock -/

@[simp] theorem State.loadRegBlock_V (x : Reg) (a : Nat) : (s.loadRegBlock x a).V = writeRegs s.V 0 (s.readBytes a (blockLength x)) := rfl
@[simp] theorem State.loadRegBlock_I (x : Reg) (a : Nat) : (s.loadRegBlock x a).I = s.I := rfl
@[simp] theorem State.loadRegBlock_pc (x : Reg) (a : Nat) : (s.loadRegBlock x a).pc = s.pc := rfl
@[simp] theorem State.loadRegBlock_stack (x : Reg) (a : Nat) : (s.loadRegBlock x a).stack = s.stack := rfl
@[simp] theorem State.loadRegBlock_sp (x : Reg) (a : Nat) : (s.loadRegBlock x a).sp = s.sp := rfl
@[simp] theorem State.loadRegBlock_DT (x : Reg) (a : Nat) : (s.loadRegBlock x a).DT = s.DT := rfl
@[simp] theorem State.loadRegBlock_ST (x : Reg) (a : Nat) : (s.loadRegBlock x a).ST = s.ST := rfl
@[simp] theorem State.loadRegBlock_keypad (x : Reg) (a : Nat) : (s.loadRegBlock x a).keypad = s.keypad := rfl
@[simp] theorem State.loadRegBlock_video (x : Reg) (a : Nat) : (s.loadRegBlock x a).video = s.video := rfl
@[simp] theorem State.loadRegBlock_mem (x : Reg) (a : Nat) : (s.loadRegBlock x a).mem = s.mem := rfl
@[simp] theorem State.loadRegBlock_status (x : Reg) (a : Nat) : (s.loadRegBlock x a).status = s.status := rfl
@[simp] theorem State.loadRegBlock_phase (x : Reg) (a : Nat) : (s.loadRegBlock x a).phase = s.phase := rfl
@[simp] theorem State.loadRegBlock_fontLoaded (x : Reg) (a : Nat) : (s.loadRegBlock x a).fontLoaded = s.fontLoaded := rfl
@[simp] theorem State.loadRegBlock_romLoaded (x : Reg) (a : Nat) : (s.loadRegBlock x a).romLoaded = s.romLoaded := rfl
@[simp] theorem State.loadRegBlock_rnd (x : Reg) (a : Nat) : (s.loadRegBlock x a).rnd = s.rnd := rfl
@[simp] theorem State.loadRegBlock_draws (x : Reg) (a : Nat) : (s.loadRegBlock x a).draws = s.draws := rfl
@[simp] theorem State.loadRegBlock_params (x : Reg) (a : Nat) : (s.loadRegBlock x a).params = s.params := rfl

@[simp] theorem State.loadRegBlock_readByte (x : Reg) (a : Nat) (k : Nat) : (s.loadRegBlock x a).readByte k = s.readByte k := rfl

/-! ### beginStep -/

@[simp] theorem State.beginStep_V (b : Byte) : (s.beginStep b).V = s.V := rfl
@[simp] theorem State.beginStep_I (b : Byte) : (s.beginStep b).I = s.I := rfl
@[simp] theorem State.beginStep_pc (b : Byte) : (s.beginStep b).pc = s.pc := rfl
@[simp] theorem State.beginStep_stack (b : Byte) : (s.beginStep b).stack = s.stack := rfl
@[simp] theorem State.beginStep_sp (b : Byte) : (s.beginStep b).sp = s.sp := rfl
@[simp] theorem State.beginStep_DT (b : Byte) : (s.beginStep b).DT = s.DT := rfl
@[simp] theorem State.beginStep_ST (b : Byte) : (s.beginStep b).ST = s.ST := rfl
@[simp] theorem State.beginStep_keypad (b : Byte) : (s.beginStep b).keypad = s.keypad := rfl
@[simp] theorem State.beginStep_video (b : Byte) : (s.beginStep b).video = s.video := rfl
@[simp] theorem State.beginStep_mem (b : Byte) : (s.beginStep b).mem = s.mem := rfl
@[simp] theorem State.beginStep_status (b : Byte) : (s.beginStep b).status = s.status := rfl
@[simp] theorem State.beginStep_phase (b : Byte) : (s.beginStep b).phase = .run := rfl
@[simp] theorem State.beginStep_fontLoaded (b : Byte) : (s.beginStep b).fontLoaded = s.fontLoaded := rfl
@[simp] theorem State.beginStep_romLoaded (b : Byte) : (s.beginStep b).romLoaded = s.romLoaded := rfl
@[simp] theorem State.beginStep_rnd (b : Byte) : (s.beginStep b).rnd = b := rfl
@[simp] theorem State.beginStep_draws (b : Byte) : (s.beginStep b).draws = s.draws + 1 := rfl
@[simp] theorem State.beginStep_params (b : Byte) : (s.beginStep b).params = s.params := rfl

@[simp] theorem State.beginStep_reg (b : Byte) (q : Reg) : (s.beginStep b).reg q = s.reg q := rfl
@[simp] theorem State.beginStep_readByte (b : Byte) (k : Nat) : (s.beginStep b).readByte k = s.readByte k := rfl

/-! ### The conditional updates leave every other field -/

@[simp] theorem State.skipIf_V (c : Bool) : (s.skipIf c).V = s.V := by cases c <;> rfl
@[simp] theorem State.skipIf_I (c : Bool) : (s.skipIf c).I = s.I := by cases c <;> rfl
@[simp] theorem State.skipIf_stack (c : Bool) : (s.skipIf c).stack = s.stack := by cases c <;> rfl
@[simp] theorem State.skipIf_sp (c : Bool) : (s.skipIf c).sp = s.sp := by cases c <;> rfl
@[simp] theorem State.skipIf_DT (c : Bool) : (s.skipIf c).DT = s.DT := by cases c <;> rfl
@[simp] theorem State.skipIf_ST (c : Bool) : (s.skipIf c).ST = s.ST := by cases c <;> rfl
@[simp] theorem State.skipIf_keypad (c : Bool) : (s.skipIf c).keypad = s.keypad := by cases c <;> rfl
@[simp] theorem State.skipIf_video (c : Bool) : (s.skipIf c).video = s.video := by cases c <;> rfl
@[simp] theorem State.skipIf_mem (c : Bool) : (s.skipIf c).mem = s.mem := by cases c <;> rfl
@[simp] theorem State.skipIf_status (c : Bool) : (s.skipIf c).status = s.status := by cases c <;> rfl
@[simp] theorem State.skipIf_phase (c : Bool) : (s.skipIf c).phase = s.phase := by cases c <;> rfl
@[simp] theorem State.skipIf_fontLoaded (c : Bool) : (s.skipIf c).fontLoaded = s.fontLoaded := by cases c <;> rfl
@[simp] theorem State.skipIf_romLoaded (c : Bool) : (s.skipIf c).romLoaded = s.romLoaded := by cases c <;> rfl
@[simp] theorem State.skipIf_rnd (c : Bool) : (s.skipIf c).rnd = s.rnd := by cases c <;> rfl
@[simp] theorem State.skipIf_draws (c : Bool) : (s.skipIf c).draws = s.draws := by cases c <;> rfl
@[simp] theorem State.skipIf_params (c : Bool) : (s.skipIf c).params = s.params := by cases c <;> rfl

@[simp] theorem State.resultThenFlag_I (x : Reg) (r : Byte) (f : Bool) : (s.resultThenFlag x r f).I = s.I := rfl
@[simp] theorem State.resultThenFlag_pc (x : Reg) (r : Byte) (f : Bool) : (s.resultThenFlag x r f).pc = s.pc := rfl
@[simp] theorem State.resultThenFlag_stack (x : Reg) (r : Byte) (f : Bool) : (s.resultThenFlag x r f).stack = s.stack := rfl
@[simp] theorem State.resultThenFlag_sp (x : Reg) (r : Byte) (f : Bool) : (s.resultThenFlag x r f).sp = s.sp := rfl
@[simp] theorem State.resultThenFlag_DT (x : Reg) (r : Byte) (f : Bool) : (s.resultThenFlag x r f).DT = s.DT := rfl
@[simp] theorem State.resultThenFlag_ST (x : Reg) (r : Byte) (f : Bool) : (s.resultThenFlag x r f).ST = s.ST := rfl
@[simp] theorem State.resultThenFlag_keypad (x : Reg) (r : Byte) (f : Bool) : (s.resultThenFlag x r f).keypad = s.keypad := rfl
@[simp] theorem State.resultThenFlag_video (x : Reg) (r : Byte) (f : Bool) : (s.resultThenFlag x r f).video = s.video := rfl
@[simp] theorem State.resultThenFlag_mem (x : Reg) (r : Byte) (f : Bool) : (s.resultThenFlag x r f).mem = s.mem := rfl
@[simp] theorem State.resultThenFlag_status (x : Reg) (r : Byte) (f : Bool) : (s.resultThenFlag x r f).status = s.status := rfl
@[simp] theorem State.resultThenFlag_phase (x : Reg) (r : Byte) (f : Bool) : (s.resultThenFlag x r f).phase = s.phase := rfl
@[simp] theorem State.resultThenFlag_fontLoaded (x : Reg) (r : Byte) (f : Bool) : (s.resultThenFlag x r f).fontLoaded = s.fontLoaded := rfl
@[simp] theorem State.resultThenFlag_romLoaded (x : Reg) (r : Byte) (f : Bool) : (s.resultThenFlag x r f).romLoaded = s.romLoaded := rfl
@[simp] theorem State.resultThenFlag_rnd (x : Reg) (r : Byte) (f : Bool) : (s.resultThenFlag x r f).rnd = s.rnd := rfl
@[simp] theorem State.resultThenFlag_draws (x : Reg) (r : Byte) (f : Bool) : (s.resultThenFlag x r f).draws = s.draws := rfl
@[simp] theorem State.resultThenFlag_params (x : Reg) (r : Byte) (f : Bool) : (s.resultThenFlag x r f).params = s.params := rfl

@[simp] theorem State.flagThenResult_I (x : Reg) (r : Byte) (f : Bool) : (s.flagThenResult x r f).I = s.I := by unfold State.flagThenResult; split <;> rfl
@[simp] theorem State.flagThenResult_pc (x : Reg) (r : Byte) (f : Bool) : (s.flagThenResult x r f).pc = s.pc := by unfold State.flagThenResult; split <;> rfl
@[simp] theorem State.flagThenResult_stack (x : Reg) (r : Byte) (f : Bool) : (s.flagThenResult x r f).stack = s.stack := by unfold State.flagThenResult; split <;> rfl
@[simp] theorem State.flagThenResult_sp (x : Reg) (r : Byte) (f : Bool) : (s.flagThenResult x r f).sp = s.sp := by unfold State.flagThenResult; split <;> rfl
@[simp] theorem State.flagThenResult_DT (x : Reg) (r : Byte) (f : Bool) : (s.flagThenResult x r f).DT = s.DT := by unfold State.flagThenResult; split <;> rfl
@[simp] theorem State.flagThenResult_ST (x : Reg) (r : Byte) (f : Bool) : (s.flagThenResult x r f).ST = s.ST := by unfold State.flagThenResult; split <;> rfl
@[simp] theorem State.flagThenResult_keypad (x : Reg) (r : Byte) (f : Bool) : (s.flagThenResult x r f).keypad = s.keypad := by unfold State.flagThenResult; split <;> rfl
@[simp] theorem State.flagThenResult_video (x : Reg) (r : Byte) (f : Bool) : (s.flagThenResult x r f).video = s.video := by unfold State.flagThenResult; split <;> rfl
@[simp] theorem State.flagThenResult_mem (x : Reg) (r : Byte) (f : Bool) : (s.flagThenResult x r f).mem = s.mem := by unfold State.flagThenResult; split <;> rfl
@[simp] theorem State.flagThenResult_status (x : Reg) (r : Byte) (f : Bool) : (s.flagThenResult x r f).status = s.status := by unfold State.flagThenResult; split <;> rfl
@[simp] theorem State.flagThenResult_phase (x : Reg) (r : Byte) (f : Bool) : (s.flagThenResult x r f).phase = s.phase := by unfold State.flagThenResult; split <;> rfl
@[simp] theorem State.flagThenResult_fontLoaded (x : Reg) (r : Byte) (f : Bool) : (s.flagThenResult x r f).fontLoaded = s.fontLoaded := by unfold State.flagThenResult; split <;> rfl
@[simp] theorem State.flagThenResult_romLoaded (x : Reg) (r : Byte) (f : Bool) : (s.flagThenResult x r f).romLoaded = s.romLoaded := by unfold State.flagThenResult; split <;> rfl
@[simp] theorem State.flagThenResult_rnd (x : Reg) (r : Byte) (f : Bool) : (s.flagThenResult x r f).rnd = s.rnd := by unfold State.flagThenResult; split <;> rfl
@[simp] theorem State.flagThenResult_draws (x : Reg) (r : Byte) (f : Bool) : (s.flagThenResult x r f).draws = s.draws := by unfold State.flagThenResult; split <;> rfl
@[simp] theorem State.flagThenResult_params (x : Reg) (r : Byte) (f : Bool) : (s.flagThenResult x r f).params = s.params := by unfold State.flagThenResult; split <;> rfl

theorem State.skipIf_pc (c : Bool) : (s.skipIf c).pc = if c then s.pc + 2 else s.pc := by
  cases c <;> rfl

@[simp] theorem State.tick_V : s.tick.V = s.V := by unfold State.tick; split <;> rfl
@[simp] theorem State.tick_I : s.tick.I = s.I := by unfold State.tick; split <;> rfl
@[simp] theorem State.tick_pc : s.tick.pc = s.pc := by unfold State.tick; split <;> rfl
@[simp] theorem State.tick_stack : s.tick.stack = s.stack := by unfold State.tick; split <;> rfl
@[simp] theorem State.tick_sp : s.tick.sp = s.sp := by unfold State.tick; split <;> rfl
@[simp] theorem State.tick_keypad : s.tick.keypad = s.keypad := by unfold State.tick; split <;> rfl
@[simp] theorem State.tick_video : s.tick.video = s.video := by unfold State.tick; split <;> rfl
@[simp] theorem State.tick_mem : s.tick.mem = s.mem := by unfold State.tick; split <;> rfl
@[simp] theorem State.tick_status : s.tick.status = s.status := by unfold State.tick; split <;> rfl
@[simp] theorem State.tick_phase : s.tick.phase = s.phase := by unfold State.tick; split <;> rfl
@[simp] theorem State.tick_fontLoaded : s.tick.fontLoaded = s.fontLoaded := by unfold State.tick; split <;> rfl
@[simp] theorem State.tick_romLoaded : s.tick.romLoaded = s.romLoaded := by unfold State.tick; split <;> rfl
@[simp] theorem State.tick_rnd : s.tick.rnd = s.rnd := by unfold State.tick; split <;> rfl
@[simp] theorem State.tick_draws : s.tick.draws = s.draws := by unfold State.tick; split <;> rfl
@[simp] theorem State.tick_params : s.tick.params = s.params := by unfold State.tick; split <;> rfl

theorem State.tick_of_running (h : s.status = .running) :
    s.tick = { s with DT := countDown s.DT, ST := countDown s.ST } := by
  unfold State.tick; rw [h]

theorem State.tick_of_halted (f : FaultRecord) (h : s.status = .halted f) : s.tick = s := by
  unfold State.tick; rw [h]

@[simp] theorem State.endStep_V : s.endStep.V = s.V := by unfold State.endStep; split <;> simp
@[simp] theorem State.endStep_I : s.endStep.I = s.I := by unfold State.endStep; split <;> simp
@[simp] theorem State.endStep_pc : s.endStep.pc = s.pc := by unfold State.endStep; split <;> simp
@[simp] theorem State.endStep_stack : s.endStep.stack = s.stack := by unfold State.endStep; split <;> simp
@[simp] theorem State.endStep_sp : s.endStep.sp = s.sp := by unfold State.endStep; split <;> simp
@[simp] theorem State.endStep_keypad : s.endStep.keypad = s.keypad := by unfold State.endStep; split <;> simp
@[simp] theorem State.endStep_video : s.endStep.video = s.video := by unfold State.endStep; split <;> simp
@[simp] theorem State.endStep_mem : s.endStep.mem = s.mem := by unfold State.endStep; split <;> simp
@[simp] theorem State.endStep_status : s.endStep.status = s.status := by unfold State.endStep; split <;> simp
@[simp] theorem State.endStep_phase : s.endStep.phase = s.phase := by unfold State.endStep; split <;> simp
@[simp] theorem State.endStep_fontLoaded : s.endStep.fontLoaded = s.fontLoaded := by unfold State.endStep; split <;> simp
@[simp] theorem State.endStep_romLoaded : s.endStep.romLoaded = s.romLoaded := by unfold State.endStep; split <;> simp
@[simp] theorem State.endStep_draws : s.endStep.draws = s.draws := by unfold State.endStep; split <;> simp
@[simp] theorem State.endStep_params : s.endStep.params = s.params := by unfold State.endStep; split <;> simp
@[simp] theorem State.endStep_rnd : s.endStep.rnd = 0 := by unfold State.endStep; split <;> simp

/-! ### Registers and the returned pop -/

@[simp] theorem State.reg_setReg_same (r : Reg) (v : Byte) : (s.setReg r v).reg r = v := by
  simp [State.reg]

theorem State.reg_setReg_other {r q : Reg} (v : Byte) (h : q ≠ r) :
    (s.setReg r v).reg q = s.reg q := by
  have : r.val ≠ q.val := fun e => h (Fin.ext e.symm)
  simp [State.reg, State.setReg, this]

theorem State.reg_setReg (r q : Reg) (v : Byte) :
    (s.setReg r v).reg q = if q = r then v else s.reg q := by
  split
  · next h => rw [h, State.reg_setReg_same]
  · next h => exact s.reg_setReg_other v h

theorem State.reg_resultThenFlag (x : Reg) (r : Byte) (f : Bool) (q : Reg) :
    (s.resultThenFlag x r f).reg q =
      if q = VF then flagByte f else if q = x then r else s.reg q := by
  simp only [State.resultThenFlag, State.reg_setReg]

/-- The final VF is the result only for a destination VF under the document's order (42_alu.md R133). -/
theorem State.reg_flagThenResult (x : Reg) (r : Byte) (f : Bool) (q : Reg) :
    (s.flagThenResult x r f).reg q =
      if q = x ∧ (x ≠ VF ∨ s.params.vfWriteOrder = .docOrder) then r
      else if q = VF then flagByte f else s.reg q := by
  unfold State.flagThenResult
  split
  · next h => simp only [State.reg_setReg, h, or_true, and_true]
  · next h =>
    simp only [State.reg_resultThenFlag, h, reduceCtorEq, or_false]
    by_cases h1 : q = x <;> by_cases h2 : q = VF <;> simp_all

/-- Two register files are the same when every register is. -/
theorem State.V_ext {s t : State} (h : ∀ r, t.reg r = s.reg r) : t.V = s.V :=
  Vector.ext fun i hi => h ⟨i, hi⟩

end Sys2Proof.Machine
end

