-- ==== Sys2Proof/Laws/Ops.lean ====
section
/-! SUPPORT. For each shared operation, what it can answer, said once. -/

namespace Sys2Proof.Machine

/-! ### Stack -/

theorem State.push_of_lt {s : State} (v : Word) (h : s.sp.val < 16) :
    s.push v = some { s with stack := s.stack.set s.sp.val v, sp := ⟨s.sp.val + 1, by omega⟩ } := by
  unfold State.push; rw [dif_pos h]

theorem State.push_of_full {s : State} (v : Word) (h : s.sp.val = 16) : s.push v = none := by
  unfold State.push; rw [dif_neg (by omega)]

theorem State.pop_of_pos {s : State} (h : s.sp.val ≠ 0) :
    s.pop = some (s.stack[s.sp.val - 1], { s with sp := ⟨s.sp.val - 1, by omega⟩ }) := by
  unfold State.pop; rw [dif_neg h]

theorem State.pop_of_empty {s : State} (h : s.sp.val = 0) : s.pop = none := by
  unfold State.pop; rw [dif_pos h]

/-- A push writes one entry and sp, or the stack is full. -/
theorem State.push_cases (s : State) (v : Word) :
    (∃ h : s.sp.val < 16, s.push v =
      some { s with stack := s.stack.set s.sp.val v, sp := ⟨s.sp.val + 1, by omega⟩ }) ∨
    (s.sp.val = 16 ∧ s.push v = none) := by
  by_cases h : s.sp.val < 16
  · exact .inl ⟨h, State.push_of_lt v h⟩
  · have h' : s.sp.val = 16 := by have := s.sp.isLt; omega
    exact .inr ⟨h', State.push_of_full v h'⟩

/-- A pop changes sp only, or the stack is empty. -/
theorem State.pop_cases (s : State) :
    (∃ _ : s.sp.val ≠ 0, s.pop =
      some (s.stack[s.sp.val - 1], { s with sp := ⟨s.sp.val - 1, by omega⟩ })) ∨
    (s.sp.val = 0 ∧ s.pop = none) := by
  by_cases h : s.sp.val = 0
  · exact .inr ⟨h, State.pop_of_empty h⟩
  · exact .inl ⟨h, State.pop_of_pos h⟩

/-! ### The range check -/

theorem outOfRange_eq_none {a n : Nat} : outOfRange a n = none ↔ n = 0 ∨ a + n ≤ 0x1000 := by
  unfold outOfRange memSize; split <;> simp <;> omega

theorem outOfRange_eq_some {a n k : Nat} :
    outOfRange a n = some k ↔ n ≠ 0 ∧ 0x1000 < a + n ∧ k = max a 0x1000 := by
  unfold outOfRange memSize; split <;> simp <;> omega

theorem State.withRange_inside {s : State} (i : Instr) {n : Nat} (t : State)
    (h : n = 0 ∨ s.I.toNat + n ≤ 0x1000) : s.withRange i n t = .next t := by
  unfold State.withRange; rw [outOfRange_eq_none.mpr h]

theorem State.withRange_outside {s : State} (i : Instr) {n : Nat} (t : State) (hn : n ≠ 0)
    (h : 0x1000 < s.I.toNat + n) :
    s.withRange i n t = s.execFault i .memoryOutOfRange (.addr (max s.I.toNat 0x1000)) := by
  unfold State.withRange; rw [outOfRange_eq_some.mpr ⟨hn, h, rfl⟩]

/-- A ranged access has its whole effect, or it halts the core and has none. -/
theorem State.withRange_cases {s : State} {i : Instr} {n : Nat} {t u : State}
    (h : s.withRange i n t = .next u) :
    ((n = 0 ∨ s.I.toNat + n ≤ 0x1000) ∧ u = t) ∨
    (n ≠ 0 ∧ 0x1000 < s.I.toNat + n ∧ u = s.raiseFatal
      (s.execFaultRecord i .memoryOutOfRange (.addr (max s.I.toNat 0x1000)))) := by
  by_cases hn : n = 0 ∨ s.I.toNat + n ≤ 0x1000
  · rw [State.withRange_inside i t hn] at h
    exact .inl ⟨hn, (Host.Outcome.next.inj h).symm⟩
  · rw [State.withRange_outside i t (by omega) (by omega)] at h
    exact .inr ⟨by omega, by omega, (Host.Outcome.next.inj h).symm⟩

/-! ### Keys -/

theorem State.keyHeld_of_lt {s : State} {k : Byte} (h : k.toNat < 16) :
    s.keyHeld k = some s.keypad[k.toNat] := by
  unfold State.keyHeld; rw [dif_pos h]

theorem State.keyHeld_of_ge {s : State} {k : Byte} (h : 15 < k.toNat) : s.keyHeld k = none := by
  unfold State.keyHeld; rw [dif_neg (by omega)]

theorem State.lowestHeldKey_eq_none {s : State} :
    s.lowestHeldKey = none ↔ ∀ k : Reg, s.keypad[k.val] = false := by
  simp [State.lowestHeldKey]

theorem State.lowestHeldKey_held {s : State} {k : Reg} (h : s.lowestHeldKey = some k) :
    s.keypad[k.val] = true := by
  simpa using List.find?_some h

/-! ### Operands, as numbers -/

theorem toNat_addrOf (a : Addr) : (addrOf a).toNat = a.toNat := by
  simp only [addrOf, BitVec.toNat_ofNat]; omega

theorem toNat_indexedTarget (a : Addr) (v : Byte) :
    (indexedTarget a v).toNat = a.toNat + v.toNat := by
  simp only [indexedTarget, BitVec.toNat_ofNat]; omega

theorem toNat_indexPlus (i : Word) (v : Byte) :
    (indexPlus i v).toNat = (i.toNat + v.toNat) % 65536 := by
  simp only [indexPlus, BitVec.toNat_ofNat]

theorem toNat_glyphAddr (v : Byte) : (glyphAddr v).toNat = 0x050 + 5 * (v.toNat % 16) := by
  simp only [glyphAddr, BitVec.toNat_ofNat]; omega

theorem toNat_countDown (v : Byte) : (countDown v).toNat = v.toNat - 1 := by
  unfold countDown
  split
  · rw [BitVec.toNat_sub]; simp; omega
  · omega

/-- The tone is requested exactly while the sound timer is not 0 (60_exceptions.md R227). -/
theorem State.soundActive_iff {s : State} : s.soundActive = true ↔ 0 < s.ST.toNat := by
  unfold State.soundActive
  rw [decide_eq_true_iff, ne_eq, ← BitVec.toNat_inj]
  exact Nat.pos_iff_ne_zero.symm

/-! ### Arithmetic, as numbers -/

theorem toNat_sumByte (a b : Byte) : (sumByte a b).toNat = (a.toNat + b.toNat) % 256 := by
  simp only [sumByte, BitVec.toNat_ofNat]

theorem toNat_diffByte (p q : Byte) : (diffByte p q).toNat = (p.toNat + 256 - q.toNat) % 256 := by
  simp only [diffByte, BitVec.toNat_ofNat]

theorem toNat_halfByte (a : Byte) : (halfByte a).toNat = a.toNat / 2 := by
  simp only [halfByte, BitVec.toNat_ofNat]; omega

theorem toNat_doubleByte (a : Byte) : (doubleByte a).toNat = a.toNat * 2 % 256 := by
  simp only [doubleByte, BitVec.toNat_ofNat]

/-! ### Register blocks -/

@[simp] theorem State.length_regBlock (s : State) (x : Reg) :
    (s.regBlock x).length = blockLength x := by
  simp only [State.regBlock, blockLength, List.length_take, Vector.length_toList]; omega

theorem State.getElem_regBlock (s : State) (x r : Reg) (h : r.val < (s.regBlock x).length) :
    (s.regBlock x)[r.val] = s.reg r := by
  simp [State.regBlock, State.reg]

theorem getElem_writeRegs (V : Vector Byte 16) (i k : Nat) (bs : List Byte) (h : i + bs.length ≤ 16)
    (hk : k < 16) : (writeRegs V i bs)[k] =
      if hb : i ≤ k ∧ k < i + bs.length then bs[k - i] else V[k] := by
  induction bs generalizing V i with
  | nil => rw [writeRegs, dif_neg (by simp)]
  | cons b bs ih =>
    simp only [List.length_cons] at h
    rw [writeRegs, dif_pos (by omega), ih _ _ (by omega)]
    by_cases h1 : i + 1 ≤ k ∧ k < i + 1 + bs.length
    · rw [dif_pos h1, dif_pos (by simp only [List.length_cons]; omega)]
      have e : k - i = (k - (i + 1)) + 1 := by omega
      simp only [e, List.getElem_cons_succ]
    · rw [dif_neg h1]
      by_cases h2 : k = i
      · subst h2; simp
      · rw [dif_neg (by simp only [List.length_cons]; omega), Vector.getElem_set_ne _ _ (Ne.symm h2)]

theorem State.loadRegBlock_reg (s : State) (x : Reg) (a : Nat) (r : Reg) :
    (s.loadRegBlock x a).reg r = if r ≤ x then s.readByte (a + r.val) else s.reg r := by
  have hx := x.isLt
  simp only [State.reg, State.loadRegBlock, State.readBytes]
  rw [getElem_writeRegs _ _ _ _ (by simp only [Memory.length_readBytes, blockLength]; omega)]
  by_cases h : r ≤ x
  · have h' : r.val ≤ x.val := h
    rw [dif_pos (by simp only [Memory.length_readBytes, blockLength]; omega), if_pos h,
      Memory.getElem_readBytes]; rfl
  · have h' : ¬ r.val ≤ x.val := h
    rw [dif_neg (by simp only [Memory.length_readBytes, blockLength]; omega), if_neg h]

/-! ### Fetch -/

theorem State.fetchFault_eq_none {s : State} : s.fetchFault = none ↔
    (0x200 ≤ s.pc.toNat ∨ s.params.faultOnReservedFetch = false) ∧ s.pc.toNat ≤ 0xFFE := by
  unfold State.fetchFault programBase
  split
  · next h => simp [h]
  · next h =>
    cases hr : outOfRange s.pc.toNat 2 with
    | none =>
      have := outOfRange_eq_none.mp hr
      simp only [Bool.not_eq_true, not_and_or] at h
      simp only [true_iff]
      exact ⟨h.imp (by omega) id, by omega⟩
    | some a =>
      have := outOfRange_eq_some.mp hr
      simp; omega

/-- What is placed at pc is what is fetched next. -/
theorem State.fetchWord_placeWord (s : State) (w : Word) : (s.placeWord w).fetchWord = w := by
  have h0 : (s.mem.writeBytes s.pc.toNat [highByte w, lowByte w]).read s.pc.toNat = highByte w :=
    Memory.read_writeBytes_inside s.mem s.pc.toNat 0 [highByte w, lowByte w] (by simp)
  have h1 : (s.mem.writeBytes s.pc.toNat [highByte w, lowByte w]).read (s.pc.toNat + 1) = lowByte w :=
    Memory.read_writeBytes_inside s.mem s.pc.toNat 1 [highByte w, lowByte w] (by simp)
  simp only [State.fetchWord, State.placeWord, State.readByte, State.storeBytes_mem,
    State.storeBytes_pc, h0, h1]
  exact wordOfBytes_high_low w

end Sys2Proof.Machine
end

