-- ==== Sys2Proof/Laws/PerInstr.lean ====
section
/-! SUPPORT. The laws stated instruction by instruction. `EncodesToItsRow`: the word an instruction
encodes to is selected by its own row of the opcode map (30_encoding.md R75). -/

namespace Sys2Proof.Laws.EncodesToItsRow

open Sys2Proof Sys2Proof.Machine

/-- The encoder's word satisfies the `match` and `mask` of the instruction's row. -/
def Statement (i : Instr) : Prop := (rowOf i).selects (encode i) = true

theorem of_xkk {k x : Nibble} {kk : Byte} {c : Word} (h : c.toNat = k.toNat * 4096 + kk.toNat) :
    OpcodeRow.selects ⟨c, 0xF0FF⟩ (wordXKK k x kk) = true := by
  refine decide_eq_true (BitVec.eq_of_toNat_eq ?_)
  rw [toNat_and_kind_kk, toNat_wordXKK, h]; omega

theorem of_kind_xkk {k x : Nibble} {kk : Byte} {c : Word} (h : c.toNat = k.toNat * 4096) :
    OpcodeRow.selects ⟨c, 0xF000⟩ (wordXKK k x kk) = true := by
  refine decide_eq_true (BitVec.eq_of_toNat_eq ?_)
  rw [toNat_and_kind, toNat_wordXKK, h]; omega

theorem of_xyn {k x y n : Nibble} {c : Word} (h : c.toNat = k.toNat * 4096 + n.toNat) :
    OpcodeRow.selects ⟨c, 0xF00F⟩ (wordXYN k x y n) = true := by
  refine decide_eq_true (BitVec.eq_of_toNat_eq ?_)
  rw [toNat_and_kind_n, toNat_wordXYN, h]; omega

theorem of_kind_xyn {k x y n : Nibble} {c : Word} (h : c.toNat = k.toNat * 4096) :
    OpcodeRow.selects ⟨c, 0xF000⟩ (wordXYN k x y n) = true := by
  refine decide_eq_true (BitVec.eq_of_toNat_eq ?_)
  rw [toNat_and_kind, toNat_wordXYN, h]; omega

theorem of_kind_nnn {k : Nibble} {a : Addr} {c : Word} (h : c.toNat = k.toNat * 4096) :
    OpcodeRow.selects ⟨c, 0xF000⟩ (wordNNN k a) = true := by
  refine decide_eq_true (BitVec.eq_of_toNat_eq ?_)
  rw [toNat_and_kind, toNat_wordNNN, h]; omega

theorem cls (ign : Nibble) : Statement (.cls ign) := of_xkk rfl
theorem ret (ign : Nibble) : Statement (.ret ign) := of_xkk rfl
theorem jp (nnn : Addr) : Statement (.jp nnn) := of_kind_nnn rfl
theorem call (nnn : Addr) : Statement (.call nnn) := of_kind_nnn rfl
theorem seImm (x : Reg) (kk : Byte) : Statement (.seImm x kk) := of_kind_xkk rfl
theorem sneImm (x : Reg) (kk : Byte) : Statement (.sneImm x kk) := of_kind_xkk rfl
theorem seReg (x y : Reg) (ign : Nibble) : Statement (.seReg x y ign) := of_kind_xyn rfl
theorem ldImm (x : Reg) (kk : Byte) : Statement (.ldImm x kk) := of_kind_xkk rfl
theorem addImm (x : Reg) (kk : Byte) : Statement (.addImm x kk) := of_kind_xkk rfl
theorem ldReg (x y : Reg) : Statement (.ldReg x y) := of_xyn rfl
theorem orReg (x y : Reg) : Statement (.orReg x y) := of_xyn rfl
theorem andReg (x y : Reg) : Statement (.andReg x y) := of_xyn rfl
theorem xorReg (x y : Reg) : Statement (.xorReg x y) := of_xyn rfl
theorem addReg (x y : Reg) : Statement (.addReg x y) := of_xyn rfl
theorem sub (x y : Reg) : Statement (.sub x y) := of_xyn rfl
theorem shr (x : Reg) (ign : Nibble) : Statement (.shr x ign) := of_xyn rfl
theorem subn (x y : Reg) : Statement (.subn x y) := of_xyn rfl
theorem shl (x : Reg) (ign : Nibble) : Statement (.shl x ign) := of_xyn rfl
theorem sneReg (x y : Reg) (ign : Nibble) : Statement (.sneReg x y ign) := of_kind_xyn rfl
theorem ldI (nnn : Addr) : Statement (.ldI nnn) := of_kind_nnn rfl
theorem jpV0 (nnn : Addr) : Statement (.jpV0 nnn) := of_kind_nnn rfl
theorem rnd (x : Reg) (kk : Byte) : Statement (.rnd x kk) := of_kind_xkk rfl
theorem drw (x y : Reg) (n : Nat) : Statement (.drw x y n) := of_kind_xyn rfl
theorem skp (x : Reg) : Statement (.skp x) := of_xkk rfl
theorem sknp (x : Reg) : Statement (.sknp x) := of_xkk rfl
theorem ldVxDT (x : Reg) : Statement (.ldVxDT x) := of_xkk rfl
theorem ldVxK (x : Reg) : Statement (.ldVxK x) := of_xkk rfl
theorem ldDTVx (x : Reg) : Statement (.ldDTVx x) := of_xkk rfl
theorem ldSTVx (x : Reg) : Statement (.ldSTVx x) := of_xkk rfl
theorem addI (x : Reg) : Statement (.addI x) := of_xkk rfl
theorem ldF (x : Reg) : Statement (.ldF x) := of_xkk rfl
theorem ldB (x : Reg) : Statement (.ldB x) := of_xkk rfl
theorem storeRegs (x : Reg) : Statement (.storeRegs x) := of_xkk rfl
theorem loadRegs (x : Reg) : Statement (.loadRegs x) := of_xkk rfl

end Sys2Proof.Laws.EncodesToItsRow
end

