-- ==== Sys2Proof/Laws/Step.lean ====
section
/-! SUPPORT. What a step can do, said once. -/

namespace Sys2Proof.Machine

theorem cycle_of_halted {s : State} {record : FaultRecord} (rnd : Byte)
    (h : s.status = .halted record) : cycle rnd s = .fault (.halted record) := by
  unfold cycle; rw [h]

theorem cycle_of_running {s : State} (rnd : Byte) (h : s.status = .running) :
    cycle rnd s = endOutcome (s.beginStep rnd).fetchAndRun := by
  unfold cycle; rw [h]

theorem endOutcome_eq_next {o : Result} {t : State} (h : endOutcome o = .next t) :
    ∃ u, o = .next u ∧ t = u.endStep := by
  cases o with
  | next u => exact ⟨u, rfl, (Host.Outcome.next.inj h).symm⟩
  | fault r => cases h
  | refused r => cases h

@[simp] theorem State.beginStep_fetchFault (s : State) (b : Byte) :
    (s.beginStep b).fetchFault = s.fetchFault := rfl

@[simp] theorem State.beginStep_fetchWord (s : State) (b : Byte) :
    (s.beginStep b).fetchWord = s.fetchWord := rfl

/-- A step that answers a next state halted at the fetch, ran a no-op word, or ran one instruction. -/
theorem cycle_cases {rnd : Byte} {s t : State} (h : cycle rnd s = .next t) :
    s.status = .running ∧
    ((∃ record, s.fetchFault = some record ∧ t = ((s.beginStep rnd).raiseFatal record).endStep) ∨
     (s.fetchFault = none ∧ decodeWord s.fetchWord = none ∧
        t = (s.beginStep rnd).advancePc.endStep) ∨
     (s.fetchFault = none ∧ ∃ i u, decodeWord s.fetchWord = some i ∧
        exec i (s.beginStep rnd).advancePc = .next u ∧ t = u.endStep)) := by
  cases hs : s.status with
  | halted record => rw [cycle_of_halted rnd hs] at h; cases h
  | running =>
    refine ⟨rfl, ?_⟩
    rw [cycle_of_running rnd hs] at h
    obtain ⟨u, hu, rfl⟩ := endOutcome_eq_next h
    unfold State.fetchAndRun at hu
    rw [State.beginStep_fetchFault, State.beginStep_fetchWord] at hu
    cases hf : s.fetchFault with
    | some record =>
      rw [hf] at hu
      exact .inl ⟨record, rfl, by rw [Host.Outcome.next.inj hu]⟩
    | none =>
      rw [hf] at hu
      simp only [State.runWord] at hu
      cases hd : decodeWord s.fetchWord with
      | none =>
        rw [hd] at hu
        exact .inr (.inl ⟨rfl, rfl, by rw [Host.Outcome.next.inj hu]⟩)
      | some i =>
        rw [hd] at hu
        exact .inr (.inr ⟨rfl, i, u, rfl, hu, rfl⟩)

/-- The word placed for the next step is the word that step fetches. -/
theorem State.fetchWord_withFetchWord (s : State) (nbits w : Nat) :
    (s.withFetchWord nbits w).fetchWord = tableWord nbits w := s.fetchWord_placeWord _

end Sys2Proof.Machine
end

