-- ==== Sys2Proof/Machine/Assembly.lean ====
section
/-! DEFINITION. The written form of an instruction, as the spec writes its programs (30_encoding.md
R79): the mnemonic column of R75 with registers V0 to VF and numbers in 0x hex. No state or step
depends on it. -/

namespace Sys2Proof.Machine

/-- A hex digit. -/
def hexDigit : Nat → String
  | 0 => "0" | 1 => "1" | 2 => "2" | 3 => "3" | 4 => "4" | 5 => "5" | 6 => "6" | 7 => "7"
  | 8 => "8" | 9 => "9" | 10 => "A" | 11 => "B" | 12 => "C" | 13 => "D" | 14 => "E" | _ => "F"

/-- A register, `V` and its hex digit. -/
def regText (r : Reg) : String := "V" ++ hexDigit r.val

/-- An 8-bit immediate. -/
def byteText (b : Byte) : String := "0x" ++ hexDigit (b.toNat / 16) ++ hexDigit (b.toNat % 16)

/-- A 12-bit address. -/
def addrText (a : Addr) : String :=
  "0x" ++ hexDigit (a.toNat / 256) ++ hexDigit (a.toNat / 16 % 16) ++ hexDigit (a.toNat % 16)

/-- Two register operands. -/
def regsText (x y : Reg) : String := regText x ++ "," ++ regText y

/-- A register and an immediate. -/
def regByteText (x : Reg) (kk : Byte) : String := regText x ++ "," ++ byteText kk

/-- The written form. Ignored bits are not written. -/
def asmText : Instr → String
  | .cls _ => "CLS"
  | .ret _ => "RET"
  | .jp nnn => "JP " ++ addrText nnn
  | .call nnn => "CALL " ++ addrText nnn
  | .seImm x kk => "SE " ++ regByteText x kk
  | .sneImm x kk => "SNE " ++ regByteText x kk
  | .seReg x y _ => "SE " ++ regsText x y
  | .ldImm x kk => "LD " ++ regByteText x kk
  | .addImm x kk => "ADD " ++ regByteText x kk
  | .ldReg x y => "LD " ++ regsText x y
  | .orReg x y => "OR " ++ regsText x y
  | .andReg x y => "AND " ++ regsText x y
  | .xorReg x y => "XOR " ++ regsText x y
  | .addReg x y => "ADD " ++ regsText x y
  | .sub x y => "SUB " ++ regsText x y
  | .shr x _ => "SHR " ++ regText x
  | .subn x y => "SUBN " ++ regsText x y
  | .shl x _ => "SHL " ++ regText x
  | .sneReg x y _ => "SNE " ++ regsText x y
  | .ldI nnn => "LD I," ++ addrText nnn
  | .jpV0 nnn => "JP V0," ++ addrText nnn
  | .rnd x kk => "RND " ++ regByteText x kk
  | .drw x y n => "DRW " ++ regsText x y ++ "," ++ toString n
  | .skp x => "SKP " ++ regText x
  | .sknp x => "SKNP " ++ regText x
  | .ldVxDT x => "LD " ++ regText x ++ ",DT"
  | .ldVxK x => "LD " ++ regText x ++ ",K"
  | .ldDTVx x => "LD DT," ++ regText x
  | .ldSTVx x => "LD ST," ++ regText x
  | .addI x => "ADD I," ++ regText x
  | .ldF x => "LD F," ++ regText x
  | .ldB x => "LD B," ++ regText x
  | .storeRegs x => "LD [I]," ++ regText x
  | .loadRegs x => "LD " ++ regText x ++ ",[I]"

/-- The instruction an assembler makes of the written form: ignored bits are assembled as zero. -/
def assembled : Instr → Instr
  | .cls _ => .cls 0
  | .ret _ => .ret 0
  | .jp nnn => .jp nnn
  | .call nnn => .call nnn
  | .seImm x kk => .seImm x kk
  | .sneImm x kk => .sneImm x kk
  | .seReg x y _ => .seReg x y 0
  | .ldImm x kk => .ldImm x kk
  | .addImm x kk => .addImm x kk
  | .ldReg x y => .ldReg x y
  | .orReg x y => .orReg x y
  | .andReg x y => .andReg x y
  | .xorReg x y => .xorReg x y
  | .addReg x y => .addReg x y
  | .sub x y => .sub x y
  | .shr x _ => .shr x 0
  | .subn x y => .subn x y
  | .shl x _ => .shl x 0
  | .sneReg x y _ => .sneReg x y 0
  | .ldI nnn => .ldI nnn
  | .jpV0 nnn => .jpV0 nnn
  | .rnd x kk => .rnd x kk
  | .drw x y n => .drw x y n
  | .skp x => .skp x
  | .sknp x => .sknp x
  | .ldVxDT x => .ldVxDT x
  | .ldVxK x => .ldVxK x
  | .ldDTVx x => .ldDTVx x
  | .ldSTVx x => .ldSTVx x
  | .addI x => .addI x
  | .ldF x => .ldF x
  | .ldB x => .ldB x
  | .storeRegs x => .storeRegs x
  | .loadRegs x => .loadRegs x

end Sys2Proof.Machine
end

