-- ==== Sys2Proof/Tests/Slice0.lean ====
section
/-! SUPPORT. Tests: the well-formedness check, a written-out word for every instruction, one step per
test from the vectors of spec/95_test_vectors.md (named in each docstring), and a witness for the
hypotheses of every obligation that has some. -/

namespace Sys2Proof.Tests

open Sys2Proof Sys2Proof.Machine

/-! ### Helpers -/

/-- The reset state with a word at pc (95_test_vectors.md, conventions; the font is not loaded). -/
def placed (w : Nat) : State := State.reset.withFetchWord 16 w

/-- A look at the state after one step, whatever its random byte. -/
def after {α : Type} (s : State) (look : State → α) : Option α :=
  match step s with
  | .next t => some (look t)
  | .fault _ => none
  | .refused _ => none

/-- A look at the state after one step with a given random byte. -/
def afterWith {α : Type} (rnd : Byte) (s : State) (look : State → α) : Option α :=
  match cycle rnd s with
  | .next t => some (look t)
  | .fault _ => none
  | .refused _ => none

/-- A look at the state after one operation of the host. -/
def afterOp {α : Type} (op : HostOp) (s : State) (look : State → α) : Option α :=
  match op.apply s with
  | .next t => some (look t)
  | .fault _ => none
  | .refused _ => none

/-- The setting `flag_last` of VF_WRITE_ORDER. -/
def flagLast (s : State) : State := { s with params := { s.params with vfWriteOrder := .flagLast } }

/-- A record as the vectors write it. -/
def haltedWith (kind : FaultKind) (ia w : Word) (detail : FaultDetail) : Status :=
  .halted ⟨kind, some ia, some w, detail⟩

/-! ### Well-formedness -/

/-- 30_encoding.md R72: n is a 4-bit count. -/
theorem test_wellFormed_refuses_drw_of_16_rows : ¬ (Instr.drw 0 0 16).WellFormed := by decide

theorem test_wellFormed_accepts_drw_of_15_rows : (Instr.drw 0 0 15).WellFormed := by decide

/-! ### Decoding: words written out from the patterns of 30_encoding.md R75 -/

theorem test_decode_controlFlow :
    decodeWord 0b0000_0000_1110_1110#16 = some (.ret 0) ∧
    decodeWord 0b0001_0010_0011_0100#16 = some (.jp 0x234) ∧
    decodeWord 0b0010_0011_0100_0101#16 = some (.call 0x345) ∧
    decodeWord 0b0011_0011_0001_0000#16 = some (.seImm 3 0x10) ∧
    decodeWord 0b0100_0011_1001_0001#16 = some (.sneImm 3 0x91) ∧
    decodeWord 0b0101_0001_0010_0000#16 = some (.seReg 1 2 0) ∧
    decodeWord 0b1001_0001_0010_0001#16 = some (.sneReg 1 2 1) ∧
    decodeWord 0b1011_0011_0000_0001#16 = some (.jpV0 0x301) := by decide

theorem test_decode_alu :
    decodeWord 0b0110_1010_0100_0010#16 = some (.ldImm 0xA 0x42) ∧
    decodeWord 0b0111_0001_1111_1110#16 = some (.addImm 1 0xFE) ∧
    decodeWord 0b1000_0001_0010_0000#16 = some (.ldReg 1 2) ∧
    decodeWord 0b1000_0001_0010_0001#16 = some (.orReg 1 2) ∧
    decodeWord 0b1000_0001_0010_0010#16 = some (.andReg 1 2) ∧
    decodeWord 0b1000_0001_0010_0011#16 = some (.xorReg 1 2) ∧
    decodeWord 0b1000_0001_0010_0100#16 = some (.addReg 1 2) ∧
    decodeWord 0b1000_0001_0010_0101#16 = some (.sub 1 2) ∧
    decodeWord 0b1000_1010_1011_0110#16 = some (.shr 0xA 0xB) ∧
    decodeWord 0b1000_0001_0010_0111#16 = some (.subn 1 2) ∧
    decodeWord 0b1000_0001_0010_1110#16 = some (.shl 1 2) ∧
    decodeWord 0b1100_0001_0000_1111#16 = some (.rnd 1 0x0F) := by decide

theorem test_decode_indexMemory :
    decodeWord 0b1010_0010_1111_0000#16 = some (.ldI 0x2F0) ∧
    decodeWord 0b1111_0010_0001_1110#16 = some (.addI 2) ∧
    decodeWord 0b1111_0011_0010_1001#16 = some (.ldF 3) ∧
    decodeWord 0b1111_0100_0011_0011#16 = some (.ldB 4) ∧
    decodeWord 0b1111_0101_0101_0101#16 = some (.storeRegs 5) ∧
    decodeWord 0b1111_0110_0110_0101#16 = some (.loadRegs 6) := by decide

theorem test_decode_display :
    decodeWord 0b0000_0101_1110_0000#16 = some (.cls 5) ∧
    decodeWord 0b1101_0011_1010_0111#16 = some (.drw 3 0xA 7) := by decide

theorem test_decode_timersKeys :
    decodeWord 0b1110_0010_1001_1110#16 = some (.skp 2) ∧
    decodeWord 0b1110_0010_1010_0001#16 = some (.sknp 2) ∧
    decodeWord 0b1111_0101_0000_0111#16 = some (.ldVxDT 5) ∧
    decodeWord 0b1111_0101_0000_1010#16 = some (.ldVxK 5) ∧
    decodeWord 0b1111_0101_0001_0101#16 = some (.ldDTVx 5) ∧
    decodeWord 0b1111_0101_0001_1000#16 = some (.ldSTVx 5) := by decide

/-- DEC-1, 5, 6, 8, 9, 12, 14 to 17. -/
theorem test_decode_noOpWords :
    [0x0000#16, 0x0123#16, 0x00E1#16, 0x8008#16, 0x800F#16, 0xE09F#16, 0xE00E#16, 0xF000#16,
      0xF0FF#16, 0xFFFF#16].map decodeWord = List.replicate 10 none := by decide

/-- Fewer than two bytes are no instruction (R70). -/
theorem test_decode_rejects_by_name :
    decode [0x12] = .error .truncated ∧ decode [] = .error .truncated ∧
    decode [0x80, 0x08, 0xFF] = .error (.noOpWord 0x8008) := ⟨rfl, rfl, rfl⟩

/-- The spec's own spelling of some words (R79; CF-8, CF-16, MEM-23, DRW-5). -/
theorem test_assembly :
    [Instr.seImm 3 0x10, .jpV0 0x300, .storeRegs 0, .drw 0 1 1, .cls 5].map asmText =
      ["SE V3,0x10", "JP V0,0x300", "LD [I],V0", "DRW V0,V1,1", "CLS"] ∧
    encode (assembled (.shr 1 0xB)) = 0x8106 := by decide

/-! ### Control flow -/

/-- CF-2, CF-20. -/
theorem test_jp : after (placed 0x11FE) State.pc = some 0x1FE := by decide

/-- CF-3. -/
theorem test_call : after ({ State.reset with pc := 0x204 }.placeWord 0x2300)
    (fun t => (t.stack[0], t.sp, t.pc)) = some (0x206, 1, 0x300) := by decide

/-- CF-4. -/
theorem test_call_overflows : after { placed 0x2300 with sp := 16 }
    (fun t => (t.status, t.pc, t.sp)) =
      some (haltedWith .stackOverflow 0x200 0x2300 (.sp 16), 0x202, 16) := by decide

/-- CF-7. -/
theorem test_ret : after { placed 0x00EE with
      sp := 3, stack := ((Vector.replicate 16 0).set 2 0x456).set 0 0x222 }
    (fun t => (t.sp, t.pc, t.stack[2])) = some (2, 0x456, 0x456) := by decide

/-- CF-6. -/
theorem test_ret_underflows : after (placed 0x00EE) (fun t => (t.status, t.pc)) =
    some (haltedWith .stackUnderflow 0x200 0x00EE (.sp 0), 0x202) := by decide

/-- CF-8, CF-9. -/
theorem test_seImm_taken : after ((placed 0x3310).setReg 3 0x10) State.pc = some 0x204 := by decide
theorem test_seImm_not_taken : after ((placed 0x3310).setReg 3 0x11) State.pc = some 0x202 := by
  decide

/-- CF-10, CF-11. -/
theorem test_sneImm_not_taken : after ((placed 0x4310).setReg 3 0x10) State.pc = some 0x202 := by
  decide
theorem test_sneImm_taken : after ((placed 0x4310).setReg 3 0x11) State.pc = some 0x204 := by decide

/-- CF-12, CF-13. -/
theorem test_seReg_taken : after (((placed 0x5120).setReg 1 7).setReg 2 7) State.pc = some 0x204 := by
  decide
theorem test_seReg_not_taken : after (((placed 0x5120).setReg 1 7).setReg 2 8) State.pc =
    some 0x202 := by decide

/-- CF-14, CF-15. -/
theorem test_sneReg_taken : after (((placed 0x9120).setReg 1 7).setReg 2 8) State.pc = some 0x204 := by
  decide
theorem test_sneReg_same_register : after ((placed 0x9440).setReg 4 9) State.pc = some 0x202 := by
  decide

/-- CF-16, CF-17. -/
theorem test_jpV0 : after ((placed 0xB300).setReg 0 4) State.pc = some 0x304 := by decide
theorem test_jpV0_largest : after ((placed 0xBFFF).setReg 0 0xFF) State.pc = some 0x10FE := by decide

/-! ### Arithmetic, logic, random -/

/-- ALU-1. -/
theorem test_ldImm : after (placed 0x6A42) (fun t => (t.reg 0xA, t.pc)) = some (0x42, 0x202) := by
  decide

/-- ALU-2, ALU-4. -/
theorem test_addImm_no_flag : after (((placed 0x7102).setReg 1 0xFF).setReg VF 7)
    (fun t => (t.reg 1, t.reg VF)) = some (0x01, 0x07) := by decide
theorem test_addImm_to_vf : after ((placed 0x7F01).setReg VF 0x10) (fun t => t.reg VF) =
    some 0x11 := by decide

/-- ALU-5. -/
theorem test_ldReg : after ((placed 0x8120).setReg 2 0x33) (fun t => t.reg 1) = some 0x33 := by decide

/-- ALU-6. -/
theorem test_orReg : after ((((placed 0x8121).setReg 1 0x0F).setReg 2 0xF0).setReg VF 5)
    (fun t => (t.reg 1, t.reg VF)) = some (0xFF, 0x05) := by decide

/-- ALU-7. -/
theorem test_andReg : after (((placed 0x8122).setReg 1 0x3C).setReg 2 0x0F) (fun t => t.reg 1) =
    some 0x0C := by decide

/-- ALU-8, ALU-9. -/
theorem test_xorReg : after (((placed 0x8123).setReg 1 0xFF).setReg 2 0x0F) (fun t => t.reg 1) =
    some 0xF0 := by decide
theorem test_xorReg_same_register : after ((placed 0x8113).setReg 1 0xAB) (fun t => t.reg 1) =
    some 0x00 := by decide

/-- ALU-11, ALU-VF-6. -/
theorem test_addReg_clears_flag : after ((((placed 0x8124).setReg 1 0x80).setReg 2 0x7F).setReg VF 1)
    (fun t => (t.reg 1, t.reg VF)) = some (0xFF, 0x00) := by decide
theorem test_addReg_to_vf : after (((placed 0x8F14).setReg VF 0x10).setReg 1 0x20)
    (fun t => t.reg VF) = some 0x00 := by decide

/-- ALU-13, ALU-VF-2. -/
theorem test_sub_borrow : after (((placed 0x8125).setReg 1 3).setReg 2 5)
    (fun t => (t.reg 1, t.reg VF)) = some (0xFE, 0x00) := by decide
theorem test_sub_to_vf_doc_order : after (((placed 0x8F15).setReg VF 5).setReg 1 3)
    (fun t => t.reg VF) = some 0x02 := by decide

/-- ALU-17, ALU-VF-3 under flag_last. -/
theorem test_shr_ignores_y : after (((placed 0x8126).setReg 1 0x04).setReg 2 0xFF)
    (fun t => (t.reg 1, t.reg VF)) = some (0x02, 0x00) := by decide
theorem test_shr_of_vf_flag_last : after (flagLast ((placed 0x8F06).setReg VF 5))
    (fun t => t.reg VF) = some 0x01 := by decide

/-- ALU-18, ALU-19. -/
theorem test_subn : after (((placed 0x8127).setReg 1 3).setReg 2 5)
    (fun t => (t.reg 1, t.reg VF)) = some (0x02, 0x01) := by decide
theorem test_subn_borrow : after (((placed 0x8127).setReg 1 1).setReg 2 0)
    (fun t => (t.reg 1, t.reg VF)) = some (0xFF, 0x00) := by decide

/-- ALU-22, ALU-VF-5. -/
theorem test_shl : after ((placed 0x810E).setReg 1 0x81) (fun t => (t.reg 1, t.reg VF)) =
    some (0x02, 0x01) := by decide
theorem test_shl_of_vf_doc_order : after ((placed 0x8F0E).setReg VF 0x81) (fun t => t.reg VF) =
    some 0x02 := by decide

/-- ALU-24, ALU-25 (whatever the random byte). -/
theorem test_rnd_masks : afterWith 0xA7 (placed 0xC10F) (fun t => (t.reg 1, t.rnd)) =
    some (0x07, 0x00) := by decide
theorem test_rnd_of_mask_zero : after ((placed 0xC100).setReg 1 9) (fun t => t.reg 1) = some 0x00 := by
  show some (Config.randomByte 0 &&& 0x00#8) = some 0x00
  rw [BitVec.and_zero]; rfl

/-! ### Index and memory -/

/-- MEM-1. -/
theorem test_ldI : after (placed 0xA123) State.I = some 0x123 := by decide

/-- MEM-4. -/
theorem test_addI_wraps : after { (placed 0xF21E).setReg 2 2 with I := 0xFFFF } State.I =
    some 0x0001 := by decide

/-- MEM-6, MEM-8. -/
theorem test_ldF_masks : after ((placed 0xF329).setReg 3 0x1A) State.I = some 0x082 := by decide
theorem test_ldF_last_glyph : after ((placed 0xF329).setReg 3 0x0F) State.I = some 0x09B := by decide

/-- MEM-12, MEM-13. -/
theorem test_ldB_at_the_top : after { (placed 0xF033).setReg 0 0x7B with I := 0xFFD }
    (fun t => t.readBytes 0xFFD 3) = some [1, 2, 3] := by decide
theorem test_ldB_out_of_range : after { (placed 0xF033).setReg 0 0x7B with I := 0xFFE }
    (fun t => (t.status, t.readBytes 0xFFE 2, t.pc)) =
      some (haltedWith .memoryOutOfRange 0x200 0xF033 (.addr 0x1000), [0, 0], 0x202) := by decide

/-- E7 step 1, MEM-17. -/
theorem test_storeRegs : after { placed 0xF355 with
      V := #v[0x11, 0x22, 0x33, 0x44, 0x55, 0, 0, 0, 0, 0, 0, 0, 0, 0, 0, 0], I := 0x300 }
    (fun t => (t.readBytes 0x300 5, t.I)) = some ([0x11, 0x22, 0x33, 0x44, 0x00], 0x300) := by decide
theorem test_storeRegs_out_of_range : after { (placed 0xF355).setReg 0 1 with I := 0xFFD }
    (fun t => (t.status, t.readByte 0xFFD)) =
      some (haltedWith .memoryOutOfRange 0x200 0xF355 (.addr 0x1000), 0) := by decide

/-- MEM-18 (with a register above Vx), MEM-21. -/
theorem test_loadRegs : after
    { ((placed 0xF265).storeBytes 0x300 [2, 3, 4, 5]).setReg 3 9 with I := 0x300 }
    (fun t => (t.reg 0, t.reg 1, t.reg 2, t.reg 3, t.I)) = some (2, 3, 4, 9, 0x300) := by decide
theorem test_loadRegs_out_of_range : after { (placed 0xF165).setReg 0 7 with I := 0xFFF }
    (fun t => (t.status, t.reg 0)) =
      some (haltedWith .memoryOutOfRange 0x200 0xF165 (.addr 0x1000), 7) := by decide

/-! ### Display -/

/-- E3, on one corner of the screen. -/
theorem test_cls : after ((placed 0x00E0).setVideo (Vector.replicate 32 (Vector.replicate 64 true)))
    (fun t => (t.video.pixel 63 31, t.video.pixel 0 0)) = some (false, false) := by decide

/-- DRW-5: clipped at the right edge, not wrapped. -/
theorem test_drw_clips : after
    { ((placed 0xD011).storeBytes 0x300 [0xFF]).setReg 0 0x3C with I := 0x300 }
    (fun t => (t.video.pixel 60 0, t.video.pixel 63 0, t.video.pixel 0 0, t.reg VF)) =
      some (true, true, false, 0) := by decide

/-- DRW-8 and DRW-9 in one: bit 7 is the leftmost column, and only an on-pixel turned off collides. -/
theorem test_drw_collides : after
    { ((placed 0xD011).storeBytes 0x300 [0xC0]).setVideo
        (Framebuffer.off.set 0 ((Vector.replicate 64 false).set 0 true)) with I := 0x300 }
    (fun t => (t.video.pixel 0 0, t.video.pixel 1 0, t.video.pixel 2 0, t.reg VF)) =
      some (false, true, false, 1) := by decide

/-! ### Timers and keys -/

/-- TK-1. -/
theorem test_ldVxDT : after { placed 0xF507 with DT := 0x3C } (fun t => t.reg 5) = some 0x3C := by
  decide

/-- TK-2, TK-6. -/
theorem test_ldDTVx : after ((placed 0xF515).setReg 5 0x3C) State.DT = some 0x3C := by decide
theorem test_ldDTVx_ticks_on_step : after { (placed 0xF515).setReg 5 0x3C with
      params := { defaultParams with tickOnStep := true } } State.DT = some 0x3B := by decide

/-- TK-3. -/
theorem test_ldSTVx : after ((placed 0xF518).setReg 5 2) (fun t => (t.ST, t.soundActive)) =
    some (2, true) := by decide

/-- TK-8, TK-12. -/
theorem test_skp : after { (placed 0xE29E).setReg 2 5 with
      keypad := (Vector.replicate 16 false).set 5 true } State.pc = some 0x204 := by decide
theorem test_skp_out_of_range : after ((placed 0xE29E).setReg 2 0x10) (fun t => (t.status, t.pc)) =
    some (haltedWith .keyIndexOutOfRange 0x200 0xE29E (.key 0x10), 0x202) := by decide

/-- TK-10, TK-11. -/
theorem test_sknp_taken : after ((placed 0xE2A1).setReg 2 5) State.pc = some 0x204 := by decide
theorem test_sknp_not_taken : after { (placed 0xE2A1).setReg 2 5 with
      keypad := (Vector.replicate 16 false).set 5 true } State.pc = some 0x202 := by decide

/-- TK-14, TK-15. -/
theorem test_ldVxK_waits : after ((placed 0xF30A).setReg 3 7) (fun t => (t.pc, t.reg 3)) =
    some (0x200, 7) := by decide
theorem test_ldVxK_takes_the_lowest : after { placed 0xF30A with
      keypad := ((Vector.replicate 16 false).set 0xF true).set 0xA true }
    (fun t => (t.reg 3, t.pc)) = some (0x0A, 0x202) := by decide

/-! ### The cycle and the host's operations -/

/-- FLT-1: 0xFFE is the last legal fetch address. -/
theorem test_fetch_at_the_top : after ({ State.reset with pc := 0xFFE }.placeWord 0x1200) State.pc =
    some 0x200 := by decide

/-- FLT-2. -/
theorem test_fetch_past_the_top : after { State.reset with pc := 0xFFF }
    (fun t => (t.status, t.pc)) =
      some (.halted ⟨.memoryOutOfRange, some 0xFFF, none, .addr 0x1000⟩, 0xFFF) := by decide

/-- FLT-4, FLT-5. -/
theorem test_reserved_fetch : after { State.reset with pc := 0x1FE } (fun t => (t.status, t.pc)) =
    some (.halted ⟨.reservedFetch, some 0x1FE, none, .none⟩, 0x1FE) := by decide
theorem test_reserved_fetch_allowed : after { State.reset with
      pc := 0x1FE, params := { defaultParams with faultOnReservedFetch := false } } State.pc =
    some 0x200 := by decide

/-- CF-22: an odd fetch address is legal. -/
theorem test_odd_fetch : after ({ State.reset with pc := 0x201 }.placeWord 0x1200) State.pc =
    some 0x200 := by decide

/-- FLT-11, DRW-10: what the step returns. -/
theorem test_cycleOutput :
    cycleOutput 0 (placed 0x00EE) =
      some ⟨some ⟨.stackUnderflow, some 0x200, some 0x00EE, .sp 0⟩, false⟩ ∧
    cycleOutput 0 { placed 0xD010 with I := 0x300 } = some ⟨none, true⟩ ∧
    cycleOutput 0 (placed 0x6A42) = some ⟨none, false⟩ := by decide

/-- R210: the codes. -/
theorem test_fault_codes :
    [FaultKind.stackOverflow, .stackUnderflow, .romTooLarge, .memoryOutOfRange, .keyIndexOutOfRange,
      .reservedFetch].map FaultKind.code = [1, 2, 3, 4, 5, 6] := rfl

/-- FLT-6: a halted core, here after FLT-2. -/
def haltedState : State :=
  State.reset.raiseFatal ⟨.memoryOutOfRange, some 0xFFF, none, .addr 0x1000⟩

theorem test_step_on_a_halted_core : step haltedState =
    .fault (.halted ⟨.memoryOutOfRange, some 0xFFF, none, .addr 0x1000⟩) := rfl

/-- TK-4, TK-5, FLT-7. -/
theorem test_tick :
    (tickTimers { State.reset with DT := 2, ST := 1 }).DT = 1 ∧
    (tickTimers { State.reset with DT := 2, ST := 1 }).ST = 0 ∧
    (tickTimers State.reset).DT = 0 ∧
    (tickTimers { haltedState with DT := 5 }).DT = 5 := by decide

/-- HOST-4, HOST-8, FLT-8. -/
theorem test_loadRom :
    afterOp (.loadRom [0x12, 0x00]) State.reset (fun t => (t.mem, t.romLoaded)) =
      some ([(0x200, 0x12)], true) ∧
    loadRom [0x60, 0x06] { State.reset with romLoaded := true } = .refused .romLoadNotAdmitted ∧
    loadRom [0x60, 0x06] haltedState = .refused .romLoadNotAdmitted := ⟨by decide, rfl, rfl⟩

/-- HOST-3, HOST-5: font load after font load, and after a step. -/
theorem test_loadFont_refused :
    loadFont { State.reset with fontLoaded := true } = .refused .fontLoadNotAdmitted ∧
    loadFont { State.reset with phase := .run } = .refused .fontLoadNotAdmitted := ⟨rfl, rfl⟩

/-- HOST-2, at both ends. -/
theorem test_font : defaultFont[0] = 0xF0 ∧ defaultFont[1] = 0x90 ∧ defaultFont[4] = 0xF0 ∧
    defaultFont[0x082 - 0x050] = 0xF0 ∧ defaultFont[79] = 0x80 := by decide

/-! ### Witnesses: states and operands that meet the hypotheses of the obligations -/

/-- The 16 return addresses of a full stack. -/
def fullStack : State := { State.reset with sp := 16, stack := Vector.replicate 16 0x202 }

theorem witness_DecodeOfEncodeIsTheInstruction : (Instr.drw 0xF 0xF 15).WellFormed := by decide

theorem witness_EncodeOfDecodeIsTheWord : decodeWord 0x5121 = some (.seReg 1 2 1) := by decide

theorem witness_DecodeAgreesWithTheOpcodeMap :
    decodeWord 0xF365 = some (.loadRegs 3) ∧
    (⟨0xF065, 0xF0FF⟩ : OpcodeRow) ∈ opcodeRows ∧
    OpcodeRow.selects ⟨0xF065, 0xF0FF⟩ 0xF365 = true := by decide

theorem witness_IgnoredBitsDoNotAffectExecution : fullStack.sp.val ≠ 0 := by decide

theorem witness_StepRunsTheDecodedInstruction :
    (placed 0x6A42).status = .running ∧ (placed 0x6A42).Fetchable ∧
    decode [(placed 0x6A42).readByte (placed 0x6A42).pc.toNat,
      (placed 0x6A42).readByte ((placed 0x6A42).pc.toNat + 1)] = .ok (.ldImm 0xA 0x42, []) ∧
    ∃ u, exec (.ldImm 0xA 0x42) { placed 0x6A42 with
      pc := (placed 0x6A42).pc + 2, phase := .run, rnd := Config.randomByte (placed 0x6A42).draws,
      draws := (placed 0x6A42).draws + 1 } = .next u :=
  ⟨rfl, by decide, rfl, _, rfl⟩

/-- At the first and the last address that is fetched, and below 0x200 where that is allowed. -/
theorem witness_NoOpWordsOnlyAdvancePc :
    ((placed 0x8008).status = .running ∧ (placed 0x8008).Fetchable ∧
      decodeWord (placed 0x8008).wordAtPc = none) ∧
    ({ State.reset with pc := 0xFFE }.Fetchable ∧
      decodeWord { State.reset with pc := 0xFFE }.wordAtPc = none) ∧
    { State.reset with
      pc := 0, params := { defaultParams with faultOnReservedFetch := false } }.Fetchable := by decide

/-- Each clause at its boundary: 0x1FF, and 0xFFF. -/
theorem witness_FetchChecksHaltTheCore :
    ({ State.reset with pc := 0x1FF }.status = .running ∧
      { State.reset with pc := 0x1FF }.pc.toNat < 0x200 ∧
      { State.reset with pc := 0x1FF }.params.faultOnReservedFetch = true) ∧
    0xFFF ≤ { State.reset with pc := 0xFFF }.pc.toNat := by decide

theorem witness_HaltedCoreAnswersItsRecord : haltedState.status =
    .halted ⟨.memoryOutOfRange, some 0xFFF, none, .addr 0x1000⟩ := rfl

theorem witness_EveryRunningStepCompletes : State.reset.status = .running := rfl

theorem witness_ExecHaltsOnlyWithItsOwnFault : fullStack.status = .running := rfl

theorem witness_ExecutionFaultsArePrecise :
    fullStack.status = .running ∧ ∃ t record, exec (.call 0x300) fullStack = .next t ∧
      t.status = .halted record := ⟨rfl, _, _, rfl, rfl⟩

theorem witness_FaultingStepsDoNotTick : ∃ t record, step (placed 0x00EE) = .next t ∧
    t.status = .halted record := ⟨_, _, rfl, rfl⟩

/-- Both clauses: a step that halts, a step that does not. -/
theorem witness_StepOutputReportsFaultAndVideo :
    (∃ t record, cycle 0 (placed 0x00EE) = .next t ∧ t.status = .halted record) ∧
    ∃ t, cycle 0 (placed 0x00E0) = .next t ∧ t.status = .running :=
  ⟨⟨_, _, rfl, rfl⟩, _, rfl, rfl⟩

theorem witness_RandomByteMattersOnlyToRnd (x : Reg) (kk : Byte) :
    decodeWord State.reset.wordAtPc ≠ some (.rnd x kk) := by
  have h : decodeWord State.reset.wordAtPc = none := by decide
  rw [h]; exact nofun

theorem witness_StepsLeaveTheHostsElementsAlone : ∃ t, step (placed 0x6A42) = .next t := ⟨_, rfl⟩

theorem witness_NoInstructionReadsTheSoundTimer :
    ∃ t, exec (.ldVxDT 0) State.reset = .next t := ⟨_, rfl⟩

theorem witness_PoppedStackEntriesAreNotObserved :
    (∀ j (h : j < 16), j < { fullStack with sp := 15 }.sp.val →
      (fullStack.stack.set 15 0x333)[j] = { fullStack with sp := 15 }.stack[j]) ∧
    ∃ t, exec (.ret 0) { fullStack with sp := 15 } = .next t := ⟨by decide, _, rfl⟩

/-- At the top of memory. -/
def storeAtFetch : State := { State.reset with I := 0xFF0, pc := 0xFFE }

theorem witness_StoredBytesAreFetchedNext :
    storeAtFetch.I.toNat + (15 : Reg).val ≤ 0xFFF ∧ (15 : Reg).val = (14 : Reg).val + 1 ∧
    (15 : Reg) ≤ 15 ∧ storeAtFetch.pc.toNat = storeAtFetch.I.toNat + (14 : Reg).val := by decide

theorem reset_inv : State.reset.Inv :=
  ⟨rfl, rfl, by decide, by decide, rfl⟩

theorem witness_EveryStepKeepsTheInvariant :
    State.reset.Inv ∧ ∃ t, step State.reset = .next t := ⟨reset_inv, _, rfl⟩

theorem witness_EveryHostOperationKeepsTheInvariant :
    State.reset.Inv ∧ ∃ t, (HostOp.loadRom [0x12, 0x00]).apply State.reset = .next t :=
  ⟨reset_inv, _, rfl⟩

theorem witness_OnlyResetLeavesHalted :
    (∃ record, haltedState.status = .halted record) ∧
    (∃ t, (HostOp.setKeys (Vector.replicate 16 true)).apply haltedState = .next t) ∧
    HostOp.setKeys (Vector.replicate 16 true) ≠ .reset := ⟨⟨_, rfl⟩, ⟨_, rfl⟩, by decide⟩

/-- Each clause at its boundary: one slot left, and none. -/
theorem witness_CallPushesTheReturnAddress :
    { fullStack with sp := 15 }.sp.val < 16 ∧ fullStack.sp.val = 16 := by decide

theorem witness_RetPopsTheReturnAddress :
    0 < { fullStack with sp := 1 }.sp.val ∧ State.reset.sp.val = 0 := by decide

theorem witness_CallThenRetRestoresPcAndSp : { fullStack with sp := 15 }.sp.val < 16 := by decide

theorem witness_destination_other_than_vf : (0xE : Reg) ≠ VF := by decide

theorem witness_RandomByteIsMaskedByTheImmediate :
    (placed 0xC10F).status = .running ∧ (placed 0xC10F).Fetchable ∧
    decodeWord (placed 0xC10F).wordAtPc = some (.rnd 1 0x0F) := by decide

theorem witness_BcdStoresTheDecimalDigits : { State.reset with I := 0xFFD }.I.toNat + 2 ≤ 0xFFF := by
  decide

/-- For StoreRegistersWritesTheBlock and LoadRegistersReadsTheBlock. -/
theorem witness_block_in_memory :
    { State.reset with I := 0xFF0 }.I.toNat + (15 : Reg).val ≤ 0xFFF := by decide

theorem witness_StoreThenLoadReproducesTheRegisters :
    { State.reset with I := 0xFFF }.I.toNat + (0 : Reg).val ≤ 0xFFF ∧
    ∃ t, exec (.storeRegs 0) { State.reset with I := 0xFFF } = .next t ∧
      (t.setReg 0 5).mem = t.mem ∧ (t.setReg 0 5).I = t.I := ⟨by decide, _, rfl, rfl, rfl⟩

/-- Each clause at the least I that is out of range. -/
theorem witness_TransfersOutOfRangeHaltUnchanged :
    { State.reset with I := 0xFFE }.I.toNat + 2 > 0xFFF ∧
    { State.reset with I := 0xFF1 }.I.toNat + (15 : Reg).val > 0xFFF ∧
    { State.reset with I := 0x1000 }.I.toNat + (0 : Reg).val > 0xFFF ∧
    (0 < 1 ∧ { State.reset with I := 0x1000 }.I.toNat + (1 - 1) > 0xFFF) := by decide

/-- No row, whatever I is, and rows up to the last address. -/
theorem witness_DrawXorsTheSpriteAndReportsCollision :
    (0 = 0 ∨ { State.reset with I := 0xFFFF }.I.toNat + (0 - 1) ≤ 0xFFF) ∧
    (15 = 0 ∨ { State.reset with I := 0xFF1 }.I.toNat + (15 - 1) ≤ 0xFFF) := by decide

theorem witness_DrawingTwiceRestoresTheScreen :
    (0xE : Reg) ≠ VF ∧ (0 : Reg) ≠ VF ∧
    (1 = 0 ∨ { State.reset with I := 0xFFF }.I.toNat + (1 - 1) ≤ 0xFFF) ∧
    ∃ t, exec (.drw 0xE 0 1) { State.reset with I := 0xFFF } = .next t :=
  ⟨by decide, by decide, by decide, _, rfl⟩

/-- Each clause at its boundary: keys 15 and 16. -/
theorem witness_KeySkipsReadTheLatch :
    ((State.reset.setReg 2 0xF).reg 2).toNat < 16 ∧
    15 < ((State.reset.setReg 2 0x10).reg 2).toNat := by decide

/-- Key 15 alone, and no key. -/
theorem witness_KeyWaitTakesTheLowestHeldKeyOrRepeats :
    (((Vector.replicate 16 false).set 15 true)[(15 : Reg).val] = true ∧
      ∀ j : Reg, j < 15 → ((Vector.replicate 16 false).set 15 true)[j.val] = false) ∧
    ∀ k : Reg, State.reset.keypad[k.val] = false := by decide

theorem witness_KeyWaitPollsAtItsOwnAddress :
    (placed 0xF30A).status = .running ∧ (placed 0xF30A).Fetchable ∧
    decodeWord (placed 0xF30A).wordAtPc = some (.ldVxK 3) ∧
    ∀ k : Reg, (placed 0xF30A).keypad[k.val] = false := by decide

theorem witness_TickCountsBothTimersDown :
    State.reset.status = .running ∧ ∃ record, haltedState.status = .halted record := ⟨rfl, _, rfl⟩

/-- Admitted; and refused for each of the three reasons. -/
theorem witness_FontLoadWritesTheFontOnce :
    (State.reset.phase = .setup ∧ State.reset.status = .running ∧ State.reset.fontLoaded = false) ∧
    { State.reset with phase := .run }.phase = .run ∧ haltedState.status ≠ .running ∧
    { State.reset with fontLoaded := true }.fontLoaded = true := by decide

/-- Admitted, at the largest ROM and at the least one too large; and refused. -/
theorem witness_RomLoadWritesTheRomOnce :
    (State.reset.phase = .setup ∧ State.reset.status = .running ∧ State.reset.romLoaded = false) ∧
    (List.replicate 3584 (0xFF : Byte)).length ≤ 3584 ∧
    3584 < (List.replicate 3585 (0xFF : Byte)).length ∧
    { State.reset with romLoaded := true }.romLoaded = true :=
  ⟨⟨rfl, rfl, rfl⟩, by rw [List.length_replicate], by rw [List.length_replicate]; omega, rfl⟩

theorem witness_frames :
    (family (.call 0x300) = .controlFlow ∧ ∃ t, exec (.call 0x300) State.reset = .next t) ∧
    (family (.addReg 0 1) = .alu ∧ ∃ t, exec (.addReg 0 1) State.reset = .next t) ∧
    (family (.ldB 0) = .indexMemory ∧ ∃ t, exec (.ldB 0) State.reset = .next t) ∧
    (family (.cls 0) = .display ∧ ∃ t, exec (.cls 0) State.reset = .next t) ∧
    (family (.skp 0) = .timersKeys ∧ ∃ t, exec (.skp 0) State.reset = .next t) :=
  ⟨⟨rfl, _, rfl⟩, ⟨rfl, _, rfl⟩, ⟨rfl, _, rfl⟩, ⟨rfl, _, rfl⟩, rfl, _, rfl⟩

end Sys2Proof.Tests
end

section
/-! PROOFS. Control flow (41_control_flow.md): what each instruction answers, said once; what the
updates it is made of leave unchanged; and the statements of the family. -/

namespace Sys2Proof.Machine

variable {s t : State}

/-! ### What each instruction answers -/

theorem exec_jp (nnn : Addr) (s : State) : exec (.jp nnn) s = .next (s.setPc (addrOf nnn)) := rfl

theorem exec_jpV0 (nnn : Addr) (s : State) :
    exec (.jpV0 nnn) s = .next (s.setPc (indexedTarget nnn (s.reg 0))) := rfl

theorem exec_seImm (x : Reg) (kk : Byte) (s : State) :
    exec (.seImm x kk) s = .next (s.skipIf (decide (s.reg x = kk))) := rfl

theorem exec_sneImm (x : Reg) (kk : Byte) (s : State) :
    exec (.sneImm x kk) s = .next (s.skipIf (decide (s.reg x ≠ kk))) := rfl

theorem exec_seReg (x y : Reg) (ign : Nibble) (s : State) :
    exec (.seReg x y ign) s = .next (s.skipIf (decide (s.reg x = s.reg y))) := rfl

theorem exec_sneReg (x y : Reg) (ign : Nibble) (s : State) :
    exec (.sneReg x y ign) s = .next (s.skipIf (decide (s.reg x ≠ s.reg y))) := rfl

theorem exec_call_of_lt (nnn : Addr) (h : s.sp.val < 16) :
    exec (.call nnn) s = .next { s with
      stack := s.stack.set s.sp.val s.pc, sp := ⟨s.sp.val + 1, by omega⟩, pc := addrOf nnn } := by
  simp only [exec, execCall, State.push_of_lt s.pc h]; rfl

theorem exec_call_of_full (nnn : Addr) (h : s.sp.val = 16) :
    exec (.call nnn) s = s.execFault (.call nnn) .stackOverflow (.sp 16) := by
  simp only [exec, execCall, State.push_of_full s.pc h, h]

theorem exec_ret_of_pos (ign : Nibble) (h : s.sp.val ≠ 0) :
    exec (.ret ign) s = .next { s with
      sp := ⟨s.sp.val - 1, by omega⟩, pc := s.stack[s.sp.val - 1] } := by
  simp only [exec, execRet, State.pop_of_pos h]; rfl

theorem exec_ret_of_empty (ign : Nibble) (h : s.sp.val = 0) :
    exec (.ret ign) s = s.execFault (.ret ign) .stackUnderflow (.sp 0) := by
  simp only [exec, execRet, State.pop_of_empty h, h]

/-- A conditional skip as a choice between two states. -/
theorem State.skipIf_decide (s : State) (p : Prop) [Decidable p] :
    s.skipIf (decide p) = if p then { s with pc := s.pc + 2 } else s := by
  by_cases hp : p
  · rw [decide_eq_true hp, if_pos hp]; rfl
  · rw [decide_eq_false hp, if_neg hp]; rfl

/-! ### What the updates leave unchanged (10_state.md R39) -/

theorem UnchangedBut.refl (es : List Element) (s : State) : UnchangedBut es s s := fun e _ => by
  cases e with
  | mem => exact fun _ => rfl
  | _ => rfl

theorem unchangedBut_setPc {es : List Element} (h : .pc ∈ es) (v : Word) :
    UnchangedBut es s (s.setPc v) := fun e he => by
  cases e with
  | pc => exact absurd h he
  | mem => exact fun _ => rfl
  | _ => rfl

theorem unchangedBut_raiseFatal {es : List Element} (h : .status ∈ es) (record : FaultRecord) :
    UnchangedBut es s (s.raiseFatal record) := fun e he => by
  cases e with
  | status => exact absurd h he
  | mem => exact fun _ => rfl
  | _ => rfl

/-- Beyond the unchanged elements, a frame has something to show only of the registers, the stack and
the memory that the instruction may write. -/
theorem Frame.of_unchangedBut {i : Instr} (h : UnchangedBut (writtenElements i) s t)
    (registers : .V ∈ writtenElements i → ∀ r, writesReg r i = false → t.reg r = s.reg r)
    (stackEntries : .stack ∈ writtenElements i →
      ∀ j (hj : j < 16), j ≠ s.sp.val → t.stack[j] = s.stack[j])
    (memory : .mem ∈ writtenElements i →
      ∀ a, storesTo s a i = false → t.readByte a = s.readByte a) : Frame i s t where
  elements := h
  registers r hr := by
    by_cases hV : .V ∈ writtenElements i
    · exact registers hV r hr
    · exact congrArg (·[r.val]) (h .V hV)
  stackEntries j hj hsp := by
    by_cases hst : .stack ∈ writtenElements i
    · exact stackEntries hst j hj hsp
    · exact congrArg (·[j]) (h .stack hst)
  memory a ha := by
    by_cases hm : .mem ∈ writtenElements i
    · exact memory hm a ha
    · exact h .mem hm a

theorem Frame.refl (i : Instr) (s : State) : Frame i s s :=
  .of_unchangedBut (.refl _ s) (fun _ _ _ => rfl) (fun _ _ _ _ => rfl) (fun _ _ _ => rfl)

/-- An instruction that halts the core keeps the frame: only status changes. -/
theorem frame_raiseFatal {i : Instr} (h : .status ∈ writtenElements i) (record : FaultRecord) :
    Frame i s (s.raiseFatal record) :=
  .of_unchangedBut (unchangedBut_raiseFatal h record) (fun _ _ _ => rfl) (fun _ _ _ _ => rfl)
    (fun _ _ _ => rfl)

/-- A jump keeps the frame of an instruction that may write pc. -/
theorem frame_setPc {i : Instr} (h : .pc ∈ writtenElements i) (v : Word) : Frame i s (s.setPc v) :=
  .of_unchangedBut (unchangedBut_setPc h v) (fun _ _ _ => rfl) (fun _ _ _ _ => rfl)
    (fun _ _ _ => rfl)

/-- A conditional skip keeps the frame of an instruction that may write pc. -/
theorem frame_skipIf {i : Instr} (h : .pc ∈ writtenElements i) (taken : Bool) :
    Frame i s (s.skipIf taken) := by
  cases taken with
  | false => exact Frame.refl i s
  | true => exact frame_setPc h (s.pc + 2)

/-- CALL writes pc, sp and the stack entry at the old sp, or halts the core. -/
theorem frame_call (nnn : Addr) (h : exec (.call nnn) s = .next t) : Frame (.call nnn) s t := by
  by_cases hsp : s.sp.val < 16
  · rw [exec_call_of_lt nnn hsp] at h
    cases h
    refine .of_unchangedBut (fun e he => ?_) (fun _ _ _ => rfl) (fun _ j hj hne => ?_)
      (fun _ _ _ => rfl)
    · cases e with
      | pc | stack | sp => exact absurd (by simp [writtenElements]) he
      | mem => exact fun _ => rfl
      | _ => rfl
    · exact Vector.getElem_set_ne hsp hj (Ne.symm hne)
  · rw [exec_call_of_full nnn (by omega)] at h
    cases h
    exact frame_raiseFatal (by simp [writtenElements]) _

/-- RET writes pc and sp, or halts the core. -/
theorem frame_ret (ign : Nibble) (h : exec (.ret ign) s = .next t) : Frame (.ret ign) s t := by
  by_cases hsp : s.sp.val = 0
  · rw [exec_ret_of_empty ign hsp] at h
    cases h
    exact frame_raiseFatal (by simp [writtenElements]) _
  · rw [exec_ret_of_pos ign hsp] at h
    cases h
    refine .of_unchangedBut (fun e he => ?_) (fun _ _ _ => rfl) (fun _ _ _ _ => rfl)
      (fun _ _ _ => rfl)
    cases e with
    | pc | sp => exact absurd (by simp [writtenElements]) he
    | mem => exact fun _ => rfl
    | _ => rfl

/-! ### The statements -/

/-- Settles O24: both targets are at most 0x10FE, so the 16-bit sum is the sum of numbers. -/
theorem jumpsSetPc : Obligations.JumpsSetPc := fun nnn s =>
  ⟨⟨_, exec_jp nnn s, toNat_addrOf nnn, rfl⟩,
    ⟨_, exec_jpV0 nnn s, toNat_indexedTarget nnn (s.reg 0), rfl⟩⟩

/-- Settles O25: the two cases of the push. -/
theorem callPushesTheReturnAddress : Obligations.CallPushesTheReturnAddress := fun nnn _ =>
  ⟨fun h => ⟨_, exec_call_of_lt nnn h, Vector.getElem_set_self h, rfl, toNat_addrOf nnn⟩,
    exec_call_of_full nnn⟩

/-- Settles O26: the two cases of the pop. -/
theorem retPopsTheReturnAddress : Obligations.RetPopsTheReturnAddress := fun ign _ =>
  ⟨fun h => ⟨_, exec_ret_of_pos ign h.ne', rfl, rfl, rfl⟩, exec_ret_of_empty ign⟩

/-- Settles O27: RET reads the entry that CALL has written at the old sp. -/
theorem callThenRetRestoresPcAndSp : Obligations.CallThenRetRestoresPcAndSp := by
  intro nnn ign s h
  have hpc : (s.stack.set s.sp.val s.pc)[s.sp.val] = s.pc := Vector.getElem_set_self h
  refine ⟨_, _, exec_call_of_lt nnn h, exec_ret_of_pos ign (Nat.succ_ne_zero _), hpc, rfl, ?_⟩
  exact congrArg (fun pc => { s with stack := s.stack.set s.sp.val s.pc, pc := pc }) hpc

/-- Settles O28: bytes are equal exactly if their numbers are. -/
theorem skipsAddTwoToPc : Obligations.SkipsAddTwoToPc := by
  intro x y kk ign s
  simp only [BitVec.toNat_inj]
  refine ⟨?_, ?_, ?_, ?_⟩
  · rw [exec_seImm, State.skipIf_decide]
  · rw [exec_sneImm, State.skipIf_decide, ite_not]
  · rw [exec_seReg, State.skipIf_decide]
  · rw [exec_sneReg, State.skipIf_decide, ite_not]

/-- Settles O56: each instruction of the family is a jump, a skip, CALL or RET. -/
theorem controlFlowFrame : Obligations.ControlFlowFrame := by
  intro i s t hi h
  cases i with
  | jp nnn => cases h; exact frame_setPc (List.mem_singleton_self _) _
  | jpV0 nnn => cases h; exact frame_setPc (List.mem_singleton_self _) _
  | seImm x kk => cases h; exact frame_skipIf (List.mem_singleton_self _) _
  | sneImm x kk => cases h; exact frame_skipIf (List.mem_singleton_self _) _
  | seReg x y ign => cases h; exact frame_skipIf (List.mem_singleton_self _) _
  | sneReg x y ign => cases h; exact frame_skipIf (List.mem_singleton_self _) _
  | call nnn => exact frame_call nnn h
  | ret ign => exact frame_ret ign h
  | _ => simp [family] at hi

end Sys2Proof.Machine
end

section
/-! PROOFS. Register arithmetic, logic and random (42_alu.md): what each instruction answers, said once;
the flag each reports; that writes to listed registers change only those; and the statements of the
family. -/

namespace Sys2Proof.Machine

variable {s t : State}

/-! ### What each instruction answers -/

theorem exec_ldImm (x : Reg) (kk : Byte) (s : State) :
    exec (.ldImm x kk) s = .next (s.setReg x kk) := rfl

theorem exec_addImm (x : Reg) (kk : Byte) (s : State) :
    exec (.addImm x kk) s = .next (s.setReg x (sumByte (s.reg x) kk)) := rfl

theorem exec_ldReg (x y : Reg) (s : State) :
    exec (.ldReg x y) s = .next (s.setReg x (s.reg y)) := rfl

theorem exec_orReg (x y : Reg) (s : State) :
    exec (.orReg x y) s = .next (s.setReg x (s.reg x ||| s.reg y)) := rfl

theorem exec_andReg (x y : Reg) (s : State) :
    exec (.andReg x y) s = .next (s.setReg x (s.reg x &&& s.reg y)) := rfl

theorem exec_xorReg (x y : Reg) (s : State) :
    exec (.xorReg x y) s = .next (s.setReg x (s.reg x ^^^ s.reg y)) := rfl

theorem exec_addReg (x y : Reg) (s : State) : exec (.addReg x y) s = .next
    (s.resultThenFlag x (sumByte (s.reg x) (s.reg y)) (carryOut (s.reg x) (s.reg y))) := rfl

theorem exec_sub (x y : Reg) (s : State) : exec (.sub x y) s = .next
    (s.flagThenResult x (diffByte (s.reg x) (s.reg y)) (noBorrow (s.reg x) (s.reg y))) := rfl

theorem exec_shr (x : Reg) (ign : Nibble) (s : State) : exec (.shr x ign) s = .next
    (s.flagThenResult x (halfByte (s.reg x)) (lowBitOut (s.reg x))) := rfl

theorem exec_subn (x y : Reg) (s : State) : exec (.subn x y) s = .next
    (s.flagThenResult x (diffByte (s.reg y) (s.reg x)) (noBorrow (s.reg y) (s.reg x))) := rfl

theorem exec_shl (x : Reg) (ign : Nibble) (s : State) : exec (.shl x ign) s = .next
    (s.flagThenResult x (doubleByte (s.reg x)) (highBitOut (s.reg x))) := rfl

theorem exec_rnd (x : Reg) (kk : Byte) (s : State) :
    exec (.rnd x kk) s = .next (s.setReg x (s.rnd &&& kk)) := rfl

/-! ### The flags -/

/-- A flag that reports a proposition is the number 1 or 0. -/
theorem toNat_flagByte_decide (p : Prop) [Decidable p] :
    (flagByte (decide p)).toNat = if p then 1 else 0 := by
  by_cases hp : p
  · rw [decide_eq_true hp, if_pos hp]; rfl
  · rw [decide_eq_false hp, if_neg hp]; rfl

theorem toNat_flagByte_carryOut (a b : Byte) :
    (flagByte (carryOut a b)).toNat = if a.toNat + b.toNat > 255 then 1 else 0 :=
  toNat_flagByte_decide _

theorem toNat_flagByte_noBorrow (p q : Byte) :
    (flagByte (noBorrow p q)).toNat = if p.toNat > q.toNat then 1 else 0 :=
  toNat_flagByte_decide _

theorem lowBitOut_eq_getLsbD (a : Byte) : lowBitOut a = a.getLsbD 0 :=
  (Nat.testBit_zero a.toNat).symm

/-- A byte divided by 128 is at most 1, so its parity, which is bit 7, is its value. -/
theorem highBitOut_eq_getLsbD (a : Byte) : highBitOut a = a.getLsbD 7 := by
  have hlt : a.toNat / 2 ^ 7 < 2 := by omega
  rw [BitVec.getLsbD, Nat.testBit_eq_decide_div_mod_eq, Nat.mod_eq_of_lt hlt]
  rfl

theorem flagByte_lowBitOut (a : Byte) : flagByte (lowBitOut a) = if a.getLsbD 0 then 1 else 0 := by
  rw [lowBitOut_eq_getLsbD, flagByte]

theorem flagByte_highBitOut (a : Byte) : flagByte (highBitOut a) = if a.getLsbD 7 then 1 else 0 := by
  rw [highBitOut_eq_getLsbD, flagByte]

/-! ### Result and flag, for a destination other than VF -/

theorem State.reg_flagThenResult_result {x : Reg} (r : Byte) (f : Bool) (hx : x ≠ VF) :
    (s.flagThenResult x r f).reg x = r := by
  rw [State.reg_flagThenResult, if_pos ⟨rfl, .inl hx⟩]

theorem State.reg_flagThenResult_flag {x : Reg} (r : Byte) (f : Bool) (hx : x ≠ VF) :
    (s.flagThenResult x r f).reg VF = flagByte f := by
  rw [State.reg_flagThenResult, if_neg fun h => hx h.1.symm, if_pos rfl]

theorem State.reg_resultThenFlag_result {x : Reg} (r : Byte) (f : Bool) (hx : x ≠ VF) :
    (s.resultThenFlag x r f).reg x = r := by
  rw [State.reg_resultThenFlag, if_neg hx, if_pos rfl]

theorem State.reg_resultThenFlag_flag (x : Reg) (r : Byte) (f : Bool) :
    (s.resultThenFlag x r f).reg VF = flagByte f := by
  rw [State.reg_resultThenFlag, if_pos rfl]

/-! ### Only the listed registers change -/

theorem RegsOnly.refl (rs : List Reg) (s : State) : RegsOnly rs s s := ⟨rfl, fun _ _ => rfl⟩

/-- Writing one more of the listed registers changes nothing else. -/
theorem RegsOnly.setReg {rs : List Reg} {r : Reg} (h : RegsOnly rs s t) (hr : r ∈ rs) (v : Byte) :
    RegsOnly rs s (t.setReg r v) := by
  obtain ⟨hst, hregs⟩ := h
  refine ⟨?_, fun q hq => ?_⟩
  · rw [hst]; rfl
  · have hne : q ≠ r := fun e => hq (e ▸ hr)
    rw [State.reg_setReg_other _ v hne, hregs q hq]

theorem regsOnly_setReg (s : State) (x : Reg) (v : Byte) : RegsOnly [x] s (s.setReg x v) :=
  (RegsOnly.refl _ s).setReg (by simp) v

theorem regsOnly_resultThenFlag (s : State) (x : Reg) (r : Byte) (f : Bool) :
    RegsOnly [x, VF] s (s.resultThenFlag x r f) :=
  ((RegsOnly.refl _ s).setReg (by simp) r).setReg (by simp) (flagByte f)

/-- Either order of the two writes touches Vx and VF only. -/
theorem regsOnly_flagThenResult (s : State) (x : Reg) (r : Byte) (f : Bool) :
    RegsOnly [x, VF] s (s.flagThenResult x r f) := by
  unfold State.flagThenResult
  split
  · exact ((RegsOnly.refl _ s).setReg (by simp) (flagByte f)).setReg (by simp) r
  · exact regsOnly_resultThenFlag s x r f

/-! ### A step that runs an instruction (30_encoding.md R81) -/

/-- A running core whose fetch checks pass runs the instruction it fetches after the advance. -/
theorem cycle_of_decodeWord {i : Instr} (rnd : Byte) (hs : s.status = .running) (hf : s.Fetchable)
    (hd : decodeWord s.wordAtPc = some i) :
    cycle rnd s = endOutcome (exec i (s.beginStep rnd).advancePc) := by
  have hw : decodeWord s.fetchWord = some i := hd
  rw [cycle_of_running rnd hs, State.fetchAndRun, State.beginStep_fetchFault,
    State.fetchFault_eq_none.mpr hf]
  simp only [State.beginStep_fetchWord, State.runWord, hw]

theorem State.endStep_reg (s : State) (r : Reg) : s.endStep.reg r = s.reg r :=
  congrArg (·[r.val]) s.endStep_V

/-! ### The statements -/

/-- Settles O29: each of the five is one register write. -/
theorem loadsCopiesAndLogicWriteVx : Obligations.LoadsCopiesAndLogicWriteVx := by
  intro x y kk s
  refine ⟨⟨_, exec_ldImm x kk s, s.reg_setReg_same x _, regsOnly_setReg s x _⟩,
    ⟨_, exec_ldReg x y s, s.reg_setReg_same x _, regsOnly_setReg s x _⟩,
    ⟨_, exec_orReg x y s, regsOnly_setReg s x _, fun k => ?_⟩,
    ⟨_, exec_andReg x y s, regsOnly_setReg s x _, fun k => ?_⟩,
    ⟨_, exec_xorReg x y s, regsOnly_setReg s x _, fun k => ?_⟩⟩
  · rw [State.reg_setReg_same, BitVec.getLsbD_or]
  · rw [State.reg_setReg_same, BitVec.getLsbD_and]
  · rw [State.reg_setReg_same, BitVec.getLsbD_xor]

/-- Settles O30: one register write, of the narrowed sum. -/
theorem addImmediateWrapsWithoutFlag : Obligations.AddImmediateWrapsWithoutFlag := fun x kk s =>
  ⟨_, exec_addImm x kk s, by rw [State.reg_setReg_same, toNat_sumByte], regsOnly_setReg s x _⟩

/-- Settles O31: the flag is written last, so VF is the carry for every destination. -/
theorem addRegistersReportsCarry : Obligations.AddRegistersReportsCarry := by
  intro x y s
  refine ⟨_, exec_addReg x y s, regsOnly_resultThenFlag s x _ _, fun hx => ?_, ?_⟩
  · rw [State.reg_resultThenFlag_result _ _ hx, toNat_sumByte]
  · rw [State.reg_resultThenFlag_flag, toNat_flagByte_carryOut]

/-- Settles O32: with a destination other than VF both writes stay, whatever their order. -/
theorem subtractionsReportNoBorrow : Obligations.SubtractionsReportNoBorrow := by
  intro x y s
  refine ⟨⟨_, exec_sub x y s, regsOnly_flagThenResult s x _ _, fun hx => ⟨?_, ?_⟩⟩,
    ⟨_, exec_subn x y s, regsOnly_flagThenResult s x _ _, fun hx => ⟨?_, ?_⟩⟩⟩
  · rw [State.reg_flagThenResult_result _ _ hx, toNat_diffByte]
  · rw [State.reg_flagThenResult_flag _ _ hx, toNat_flagByte_noBorrow]
  · rw [State.reg_flagThenResult_result _ _ hx, toNat_diffByte]
  · rw [State.reg_flagThenResult_flag _ _ hx, toNat_flagByte_noBorrow]

/-- Settles O33: the flag, computed by division, is the bit the shift drops. -/
theorem shiftsReportTheBitShiftedOut : Obligations.ShiftsReportTheBitShiftedOut := by
  intro x ign s
  refine ⟨⟨_, exec_shr x ign s, regsOnly_flagThenResult s x _ _, fun hx => ⟨?_, ?_⟩⟩,
    ⟨_, exec_shl x ign s, regsOnly_flagThenResult s x _ _, fun hx => ⟨?_, ?_⟩⟩⟩
  · rw [State.reg_flagThenResult_result _ _ hx, toNat_halfByte]
  · rw [State.reg_flagThenResult_flag _ _ hx, flagByte_lowBitOut]
  · rw [State.reg_flagThenResult_result _ _ hx, toNat_doubleByte]
  · rw [State.reg_flagThenResult_flag _ _ hx, flagByte_highBitOut]

/-- Settles O35: RND reads the byte its step began with, and the end of the step keeps the registers. -/
theorem randomByteIsMaskedByTheImmediate : Obligations.RandomByteIsMaskedByTheImmediate := by
  refine ⟨fun x kk s => ⟨_, exec_rnd x kk s, regsOnly_setReg s x _, fun k => ?_⟩,
    fun x kk rnd s hs hf hd => ?_⟩
  · rw [State.reg_setReg_same, BitVec.getLsbD_and]
  · have hbyte : (s.beginStep rnd).advancePc.rnd = rnd := rfl
    refine ⟨_, by rw [cycle_of_decodeWord rnd hs hf hd, exec_rnd, endOutcome], fun k => ?_⟩
    rw [State.endStep_reg, State.reg_setReg_same, hbyte, BitVec.getLsbD_and]

end Sys2Proof.Machine
end

section
/-! PROOFS. The index register and memory transfers (43_index_memory.md): what each instruction answers,
said once; the bytes a transfer stores, read back; what the updates leave unchanged; and the statements
of the family. -/

namespace Sys2Proof.Machine

variable {s t : State}

/-! ### What each instruction answers -/

theorem exec_ldI (nnn : Addr) (s : State) : exec (.ldI nnn) s = .next (s.setI (addrOf nnn)) := rfl

theorem exec_addI (x : Reg) (s : State) :
    exec (.addI x) s = .next (s.setI (indexPlus s.I (s.reg x))) := rfl

theorem exec_ldF (x : Reg) (s : State) :
    exec (.ldF x) s = .next (s.setI (glyphAddr (s.reg x))) := rfl

theorem exec_ldB (x : Reg) (s : State) : exec (.ldB x) s =
    s.withRange (.ldB x) 3 (s.storeBytes s.I.toNat (decimalDigits (s.reg x))) := rfl

theorem exec_storeRegs (x : Reg) (s : State) : exec (.storeRegs x) s =
    s.withRange (.storeRegs x) (blockLength x) (s.storeBytes s.I.toNat (s.regBlock x)) := rfl

theorem exec_loadRegs (x : Reg) (s : State) : exec (.loadRegs x) s =
    s.withRange (.loadRegs x) (blockLength x) (s.loadRegBlock x s.I.toNat) := rfl

/-! A transfer whose last address lies in memory has its whole effect. -/

theorem exec_ldB_inside (x : Reg) (h : s.I.toNat + 2 ≤ 0xFFF) :
    exec (.ldB x) s = .next (s.storeBytes s.I.toNat (decimalDigits (s.reg x))) :=
  (exec_ldB x s).trans (State.withRange_inside _ _ (.inr (Nat.succ_le_succ h)))

theorem exec_storeRegs_inside {x : Reg} (h : s.I.toNat + x.val ≤ 0xFFF) :
    exec (.storeRegs x) s = .next (s.storeBytes s.I.toNat (s.regBlock x)) :=
  (exec_storeRegs x s).trans (State.withRange_inside _ _ (.inr (Nat.succ_le_succ h)))

theorem exec_loadRegs_inside {x : Reg} (h : s.I.toNat + x.val ≤ 0xFFF) :
    exec (.loadRegs x) s = .next (s.loadRegBlock x s.I.toNat) :=
  (exec_loadRegs x s).trans (State.withRange_inside _ _ (.inr (Nat.succ_le_succ h)))

/-! ### The bytes a transfer stores -/

theorem State.readByte_storeBytes_inside (s : State) (a k : Nat) (vs : List Byte)
    (h : k < vs.length) : (s.storeBytes a vs).readByte (a + k) = vs[k] :=
  Memory.read_writeBytes_inside s.mem a k vs h

theorem State.readByte_storeBytes_outside (s : State) (a b : Nat) (vs : List Byte)
    (h : b < a ∨ a + vs.length ≤ b) : (s.storeBytes a vs).readByte b = s.readByte b :=
  Memory.read_writeBytes_outside s.mem a b vs h

theorem State.readByte_storeBytes_regBlock (s : State) (a : Nat) {x r : Reg} (h : r ≤ x) :
    (s.storeBytes a (s.regBlock x)).readByte (a + r.val) = s.reg r := by
  have hlt : r.val < (s.regBlock x).length := by
    rw [State.length_regBlock]; exact Nat.lt_succ_of_le h
  rw [State.readByte_storeBytes_inside s a r.val _ hlt, State.getElem_regBlock]

/-- No digit of a byte is narrowed. -/
theorem map_toNat_decimalDigits (v : Byte) : (decimalDigits v).map BitVec.toNat =
    [v.toNat / 100, v.toNat / 10 % 10, v.toNat % 10] := by
  simp only [decimalDigits, List.map_cons, List.map_nil, BitVec.toNat_ofNat, List.cons.injEq,
    and_true]
  omega

/-- The digits of LD B,Vx read back as numbers. -/
theorem State.toNat_readByte_storeBytes_decimalDigits (s : State) (a : Nat) (v : Byte) (k : Nat)
    (h : k < 3) : ((s.storeBytes a (decimalDigits v)).readByte (a + k)).toNat =
      [v.toNat / 100, v.toNat / 10 % 10, v.toNat % 10][k] := by
  rw [State.readByte_storeBytes_inside s a k (decimalDigits v) h]
  exact (List.getElem_map BitVec.toNat).symm.trans (List.getElem_of_eq (map_toNat_decimalDigits v) h)

/-! ### What the updates leave unchanged (10_state.md R39) -/

theorem frame_setI {i : Instr} (h : .I ∈ writtenElements i) (v : Word) : Frame i s (s.setI v) := by
  refine .of_unchangedBut (fun e he => ?_) (fun _ _ _ => rfl) (fun _ _ _ _ => rfl) (fun _ _ _ => rfl)
  cases e with
  | I => exact absurd h he
  | mem => exact fun _ => rfl
  | _ => rfl

/-- A store keeps the frame of an instruction that may write memory and counts every byte the store
reaches as its own. -/
theorem frame_storeBytes {i : Instr} (h : .mem ∈ writtenElements i) {a : Nat} {vs : List Byte}
    (hi : ∀ b, storesTo s b i = false → b < a ∨ a + vs.length ≤ b) :
    Frame i s (s.storeBytes a vs) := by
  refine .of_unchangedBut (fun e he => ?_) (fun _ _ _ => rfl) (fun _ _ _ _ => rfl)
    (fun _ b hb => State.readByte_storeBytes_outside s a b vs (hi b hb))
  cases e with
  | mem => exact absurd h he
  | _ => rfl

/-- Loading V0 to Vx leaves the registers above Vx and everything beside registers. -/
theorem frame_loadRegBlock (x : Reg) (a : Nat) : Frame (.loadRegs x) s (s.loadRegBlock x a) := by
  refine .of_unchangedBut (fun e he => ?_) (fun _ r hr => ?_) (fun _ _ _ _ => rfl)
    (fun _ _ _ => rfl)
  · cases e with
    | V => exact absurd (by simp [writtenElements]) he
    | mem => exact fun _ => rfl
    | _ => rfl
  · have hrx : ¬ r ≤ x := of_decide_eq_false hr
    rw [State.loadRegBlock_reg, if_neg hrx]

/-- The range check adds to an effect only that the core may halt instead. -/
theorem frame_withRange {i : Instr} {n : Nat} {u : State} (h : .status ∈ writtenElements i)
    (ht : Frame i s t) (hu : s.withRange i n t = .next u) : Frame i s u := by
  obtain ⟨-, rfl⟩ | ⟨-, -, rfl⟩ := State.withRange_cases hu
  · exact ht
  · exact frame_raiseFatal h _

/-- The three digits are the bytes LD B,Vx stores. -/
theorem frame_ldB (x : Reg) (h : exec (.ldB x) s = .next t) : Frame (.ldB x) s t := by
  rw [exec_ldB] at h
  refine frame_withRange (by simp [writtenElements]) (frame_storeBytes (by simp [writtenElements])
    fun b hb => ?_) h
  have hout : ¬ (s.I.toNat ≤ b ∧ b < s.I.toNat + 3) := of_decide_eq_false hb
  simp only [decimalDigits, List.length_cons, List.length_nil]
  omega

/-- The block of V0 to Vx is the bytes LD [I],Vx stores. -/
theorem frame_storeRegs (x : Reg) (h : exec (.storeRegs x) s = .next t) :
    Frame (.storeRegs x) s t := by
  rw [exec_storeRegs] at h
  refine frame_withRange (by simp [writtenElements]) (frame_storeBytes (by simp [writtenElements])
    fun b hb => ?_) h
  have hout : ¬ (s.I.toNat ≤ b ∧ b < s.I.toNat + blockLength x) := of_decide_eq_false hb
  rw [State.length_regBlock]
  omega

/-! ### The statements -/

/-- Settles O37: the decimal digits of a number below 256. -/
theorem bcdStoresTheDecimalDigits : Obligations.BcdStoresTheDecimalDigits := by
  intro x s h
  refine ⟨_, exec_ldB_inside x h, ?_⟩
  have digit := s.toNat_readByte_storeBytes_decimalDigits s.I.toNat (s.reg x)
  have hundreds := digit 0 (by decide)
  have tens := digit 1 (by decide)
  have ones := digit 2 (by decide)
  simp only [Nat.add_zero, List.getElem_cons_zero, List.getElem_cons_succ] at hundreds tens ones
  have hlt := (s.reg x).isLt
  simp only [hundreds, tens, ones, State.storeBytes_I, and_true]
  omega

/-- Settles O38: the block is stored register by register. -/
theorem storeRegistersWritesTheBlock : Obligations.StoreRegistersWritesTheBlock := fun _ s h =>
  ⟨_, exec_storeRegs_inside h, rfl, fun _ hr => s.readByte_storeBytes_regBlock s.I.toNat hr⟩

/-- Settles O39: the block is loaded register by register. -/
theorem loadRegistersReadsTheBlock : Obligations.LoadRegistersReadsTheBlock := fun x s h =>
  ⟨_, exec_loadRegs_inside h, rfl, s.loadRegBlock_reg x s.I.toNat⟩

/-- Settles O40: the load reads, at the same addresses, the bytes the store has written. -/
theorem storeThenLoadReproducesTheRegisters : Obligations.StoreThenLoadReproducesTheRegisters := by
  intro x s t u h hstore hmem hI
  rw [exec_storeRegs_inside h] at hstore
  cases hstore
  rw [State.storeBytes_I] at hI
  refine ⟨_, exec_loadRegs_inside (hI ▸ h), fun r hr => ?_⟩
  calc (u.loadRegBlock x u.I.toNat).reg r
      = u.readByte (s.I.toNat + r.val) := by rw [State.loadRegBlock_reg, if_pos hr, hI]
    _ = (s.storeBytes s.I.toNat (s.regBlock x)).readByte (s.I.toNat + r.val) :=
      congrArg (·.read (s.I.toNat + r.val)) hmem
    _ = s.reg r := s.readByte_storeBytes_regBlock s.I.toNat hr

/-- Settles O58: three instructions set I; the transfers store or load behind the range check. -/
theorem indexMemoryFrame : Obligations.IndexMemoryFrame := by
  intro i s t hi h
  cases i with
  | ldI nnn => cases h; exact frame_setI (List.mem_singleton_self _) _
  | addI x => cases h; exact frame_setI (List.mem_singleton_self _) _
  | ldF x => cases h; exact frame_setI (List.mem_singleton_self _) _
  | ldB x => exact frame_ldB x h
  | storeRegs x => exact frame_storeRegs x h
  | loadRegs x =>
    rw [exec_loadRegs] at h
    exact frame_withRange (by simp [writtenElements]) (frame_loadRegBlock x s.I.toNat) h
  | _ => simp [family] at hi

/-- Settles O36: only the sum of ADD I,Vx can leave 16 bits. -/
theorem indexInstructionsSetI : Obligations.IndexInstructionsSetI := fun nnn x s =>
  ⟨⟨_, exec_ldI nnn s, toNat_addrOf nnn, rfl⟩,
    ⟨_, exec_addI x s, toNat_indexPlus s.I (s.reg x), rfl⟩,
    ⟨_, exec_ldF x s, toNat_glyphAddr (s.reg x), rfl⟩⟩

end Sys2Proof.Machine
end

section
/-! PROOFS. CLS and DRW (44_display.md): what each answers, said once; the compositor as one stamp of a
mask on the screen, from the single bit through the row to the sprite; what the updates leave unchanged;
and the statements of the family. -/

namespace Sys2Proof.Machine

variable {s t : State}

/-! ### What each instruction answers -/

theorem exec_cls (ign : Nibble) (s : State) :
    exec (.cls ign) s = .next (s.setVideo Framebuffer.off) := rfl

theorem exec_drw (x y : Reg) (n : Nat) (s : State) : exec (.drw x y n) s =
    s.withRange (.drw x y n) n
      ((s.setVideo (s.drawn x y n).1).setReg VF (flagByte (s.drawn x y n).2)) := rfl

/-- DRW of no rows, or of rows whose last one lies in memory, has its whole effect. -/
theorem exec_drw_inside (x y : Reg) {n : Nat} (h : n = 0 ∨ s.I.toNat + (n - 1) ≤ 0xFFF) :
    exec (.drw x y n) s =
      .next ((s.setVideo (s.drawn x y n).1).setReg VF (flagByte (s.drawn x y n).2)) :=
  (exec_drw x y n s).trans (State.withRange_inside _ _ (by omega))

/-! ### VF as the collision flag -/

theorem flagByte_eq_one {b : Bool} : flagByte b = 1 ↔ b = true := by cases b <;> decide

theorem flagByte_eq_zero_or_one (b : Bool) : flagByte b = 0 ∨ flagByte b = 1 := by
  cases b <;> decide

/-! ### Stamping a mask on the screen -/

/-- The drawing state `b` is `a` with a mask stamped on it: each pixel on screen is what it was XOR the
mask (44_display.md R173), and the mask hits exactly where it covers an on-pixel (R175). -/
structure Stamped (m : Nat → Nat → Bool) (a b : Framebuffer × Bool) : Prop where
  pixel : ∀ c r, c < 64 → r < 32 → b.1.pixel c r = (a.1.pixel c r ^^ m c r)
  hit : b.2 = true ↔
    a.2 = true ∨ ∃ c r, c < 64 ∧ r < 32 ∧ a.1.pixel c r = true ∧ m c r = true

/-- Stamping an empty mask does nothing. -/
theorem Stamped.of_empty {m : Nat → Nat → Bool} (hm : ∀ c r, m c r = false) (a : Framebuffer × Bool) :
    Stamped m a a where
  pixel c r _ _ := by rw [hm, Bool.xor_false]
  hit := by simp [hm]

/-- Two stamps of disjoint masks are one stamp of their union: where the second mask covers a pixel, the
first has not changed it. -/
theorem Stamped.trans {m k u : Nat → Nat → Bool} {a b d : Framebuffer × Bool}
    (hab : Stamped m a b) (hbd : Stamped k b d) (hdisj : ∀ c r, m c r = true → k c r = false)
    (hu : ∀ c r, u c r = (m c r || k c r)) : Stamped u a d where
  pixel c r hc hr := by
    have hxor : (m c r || k c r) = (m c r ^^ k c r) := by
      cases hm : m c r with
      | false => rw [Bool.false_or, Bool.false_xor]
      | true => rw [hdisj c r hm, Bool.or_false, Bool.xor_false]
    rw [hbd.pixel c r hc hr, hab.pixel c r hc hr, hu, hxor, Bool.xor_assoc]
  hit := by
    have untouched : (∃ c r, c < 64 ∧ r < 32 ∧ b.1.pixel c r = true ∧ k c r = true) ↔
        ∃ c r, c < 64 ∧ r < 32 ∧ a.1.pixel c r = true ∧ k c r = true := by
      refine exists₂_congr fun c r => and_congr_right fun hc => and_congr_right fun hr =>
        and_congr_left fun hk => ?_
      have hm : m c r = false :=
        Bool.eq_false_iff.mpr fun hm => Bool.false_ne_true ((hdisj c r hm).symm.trans hk)
      rw [hab.pixel c r hc hr, hm, Bool.xor_false]
    rw [hbd.hit, hab.hit, untouched, or_assoc, ← exists_or]
    simp only [hu, Bool.or_eq_true, and_or_left, exists_or]

/-- The mask of one sprite bit at screen position (`px`, `py`). -/
def bitMask (px py : Nat) (bit : Bool) (c r : Nat) : Bool := bit && decide (c = px ∧ r = py)

/-- The mask of the first `w` columns of a sprite row placed at (`x0`, `py`). -/
def rowMask (x0 py : Nat) (row : Byte) (w c r : Nat) : Bool :=
  decide (x0 ≤ c ∧ c < x0 + w ∧ r = py) && spriteBit row (c - x0)

/-- The mask of the `n` sprite rows at address `a`, placed at (`x0`, `y0`). -/
def spriteMask (mem : Memory) (a x0 y0 n c r : Nat) : Bool :=
  decide (x0 ≤ c ∧ c < x0 + 8 ∧ y0 ≤ r ∧ r < y0 + n) &&
    spriteBit (mem.read (a + (r - y0))) (c - x0)

theorem State.spriteOn_eq_spriteMask (s : State) (x y : Reg) (n c r : Nat) : s.spriteOn x y n c r =
    spriteMask s.mem s.I.toNat (spriteColumn (s.reg x)) (spriteRow (s.reg y)) n c r := rfl

theorem rowMask_zero (x0 py : Nat) (row : Byte) (c r : Nat) : rowMask x0 py row 0 c r = false := by
  have hout : ¬ (x0 ≤ c ∧ c < x0 + 0 ∧ r = py) := by omega
  rw [rowMask, decide_eq_false hout, Bool.false_and]

/-- One more column of a row is one more bit. -/
theorem rowMask_succ (x0 py : Nat) (row : Byte) (w c r : Nat) : rowMask x0 py row (w + 1) c r =
    (rowMask x0 py row w c r || bitMask (x0 + w) py (spriteBit row w) c r) := by
  by_cases hc : c = x0 + w
  · subst hc; simp [rowMask, bitMask, Bool.and_comm]
  · have hw : c < x0 + (w + 1) ↔ c < x0 + w := by omega
    simp [rowMask, bitMask, hc, hw]

theorem spriteMask_zero (mem : Memory) (a x0 y0 c r : Nat) : spriteMask mem a x0 y0 0 c r = false := by
  have hout : ¬ (x0 ≤ c ∧ c < x0 + 8 ∧ y0 ≤ r ∧ r < y0 + 0) := by omega
  rw [spriteMask, decide_eq_false hout, Bool.false_and]

/-- The first row of a sprite, and the rows below it. -/
theorem spriteMask_succ (mem : Memory) (a x0 y0 n c r : Nat) : spriteMask mem a x0 y0 (n + 1) c r =
    (rowMask x0 y0 (mem.read a) 8 c r || spriteMask mem (a + 1) x0 (y0 + 1) n c r) := by
  by_cases hr : r = y0
  · subst hr; simp [rowMask, spriteMask]
  · have hrows : (y0 ≤ r ∧ r < y0 + (n + 1)) ↔ (y0 + 1 ≤ r ∧ r < y0 + 1 + n) := by omega
    by_cases hy : y0 + 1 ≤ r
    · have haddr : a + (r - y0) = a + 1 + (r - (y0 + 1)) := by omega
      simp [rowMask, spriteMask, hr, hrows, haddr]
    · simp [rowMask, spriteMask, hr, hrows, hy]

/-! ### The compositor stamps the sprite -/

/-- A pixel that is on is on screen. -/
theorem Framebuffer.onScreen_of_pixel {v : Framebuffer} {c r : Nat} (h : v.pixel c r = true) :
    c < 64 ∧ r < 32 := by
  by_contra hout
  rw [Framebuffer.pixel, dif_neg hout] at h
  cases h

theorem stamped_plotBit (px py : Nat) (bit : Bool) (acc : Framebuffer × Bool) :
    Stamped (bitMask px py bit) acc (plotBit px py bit acc) where
  pixel := pixel_plotBit px py bit acc
  hit := by
    rw [hit_plotBit, Bool.or_eq_true]
    refine or_congr_right ⟨fun h => ?_, fun ⟨c, r, _, _, hon, hm⟩ => ?_⟩
    · obtain ⟨hbit, hon⟩ := Bool.and_eq_true_iff.mp h
      obtain ⟨hpx, hpy⟩ := Framebuffer.onScreen_of_pixel hon
      exact ⟨px, py, hpx, hpy, hon, by simp [bitMask, hbit]⟩
    · obtain ⟨hbit, hat⟩ := Bool.and_eq_true_iff.mp hm
      obtain ⟨rfl, rfl⟩ := of_decide_eq_true hat
      rw [hbit, hon, Bool.and_self]

/-- Columns are drawn left to right, each to the right of those before it. -/
theorem stamped_columns (x0 py : Nat) (row : Byte) (w : Nat) (acc : Framebuffer × Bool) :
    Stamped (rowMask x0 py row w) acc
      ((List.range w).foldl (fun acc c => plotBit (x0 + c) py (spriteBit row c) acc) acc) := by
  induction w with
  | zero => exact .of_empty (rowMask_zero x0 py row) acc
  | succ w ih =>
    rw [List.range_succ, List.foldl_append]
    refine ih.trans (stamped_plotBit (x0 + w) py (spriteBit row w) _) (fun c r hm => ?_)
      (rowMask_succ x0 py row w)
    obtain ⟨-, hlt, -⟩ := of_decide_eq_true (Bool.and_eq_true_iff.mp hm).1
    simp [bitMask, hlt.ne]

theorem stamped_drawRow (x0 py : Nat) (row : Byte) (acc : Framebuffer × Bool) :
    Stamped (rowMask x0 py row 8) acc (drawRow x0 py row acc) :=
  stamped_columns x0 py row 8 acc

/-- Rows are drawn downwards, each above those after it. -/
theorem stamped_drawRows (mem : Memory) (x0 n : Nat) (a y0 : Nat) (acc : Framebuffer × Bool) :
    Stamped (spriteMask mem a x0 y0 n) acc (drawRows x0 y0 (mem.readBytes a n) acc) := by
  induction n generalizing a y0 acc with
  | zero => exact .of_empty (spriteMask_zero mem a x0 y0) acc
  | succ n ih =>
    rw [Memory.readBytes, drawRows]
    refine (stamped_drawRow x0 y0 (mem.read a) acc).trans (ih (a + 1) (y0 + 1) _)
      (fun c r hm => ?_) (spriteMask_succ mem a x0 y0 n)
    obtain ⟨-, -, rfl⟩ := of_decide_eq_true (Bool.and_eq_true_iff.mp hm).1
    simp [spriteMask]

/-- DRW stamps its sprite, clipped at the screen's edges, on the screen. -/
theorem State.stamped_drawn (s : State) (x y : Reg) (n : Nat) :
    Stamped (s.spriteOn x y n) (s.video, false) (s.drawn x y n) :=
  stamped_drawRows s.mem (spriteColumn (s.reg x)) n s.I.toNat (spriteRow (s.reg y)) (s.video, false)

/-! ### What the updates leave unchanged (10_state.md R39) -/

/-- A new screen keeps the frame of an instruction that may write the framebuffer. -/
theorem frame_setVideo {i : Instr} (h : .video ∈ writtenElements i) (v : Framebuffer) :
    Frame i s (s.setVideo v) := by
  refine .of_unchangedBut (fun e he => ?_) (fun _ _ _ => rfl) (fun _ _ _ _ => rfl) (fun _ _ _ => rfl)
  cases e with
  | video => exact absurd h he
  | mem => exact fun _ => rfl
  | _ => rfl

/-- A new screen and a new VF keep the frame of DRW. -/
theorem frame_setVideo_setReg_VF (x y : Reg) (n : Nat) (v : Framebuffer) (f : Byte) :
    Frame (.drw x y n) s ((s.setVideo v).setReg VF f) := by
  refine .of_unchangedBut (fun e he => ?_) (fun _ r hr => ?_) (fun _ _ _ _ => rfl)
    (fun _ _ _ => rfl)
  · cases e with
    | V | video => exact absurd (by simp [writtenElements]) he
    | mem => exact fun _ => rfl
    | _ => rfl
  · have hne : r ≠ VF := of_decide_eq_false hr
    rw [State.reg_setReg_other _ _ hne, State.setVideo_reg]

/-- DRW writes the framebuffer and VF, or halts the core. -/
theorem frame_drw {x y : Reg} {n : Nat} (h : exec (.drw x y n) s = .next t) :
    Frame (.drw x y n) s t := by
  rw [exec_drw] at h
  exact frame_withRange (by simp [writtenElements]) (frame_setVideo_setReg_VF x y n _ _) h

/-- DRW leaves everything its own sprite is read from, unless a position register is VF. -/
theorem spriteOn_of_frame_drw {x y : Reg} {n : Nat} (hx : x ≠ VF) (hy : y ≠ VF)
    (h : Frame (.drw x y n) s t) (c r : Nat) : t.spriteOn x y n c r = s.spriteOn x y n c r := by
  have hI : t.I = s.I := h.elements .I (by simp [writtenElements])
  have hregx : t.reg x = s.reg x := h.registers x (decide_eq_false hx)
  have hregy : t.reg y = s.reg y := h.registers y (decide_eq_false hy)
  have hmem : ∀ a, t.readByte a = s.readByte a := fun a => h.memory a rfl
  simp only [State.spriteOn, hI, hregx, hregy, hmem]

/-! ### The statements -/

/-- Settles O59: CLS replaces the framebuffer; DRW also writes VF, behind the range check. -/
theorem displayFrame : Obligations.DisplayFrame := by
  intro i s t hi h
  cases i with
  | cls ign => cases h; exact frame_setVideo (List.mem_singleton_self _) _
  | drw x y n => exact frame_drw h
  | _ => simp [family] at hi

/-- Settles O42: every pixel of the blank screen is off. -/
theorem clsTurnsEveryPixelOff : Obligations.ClsTurnsEveryPixelOff := fun ign s =>
  ⟨_, exec_cls ign s, fun p _ => Framebuffer.pixel_off (p % 64) (p / 64), rfl⟩

/-- Settles O43: DRW stamps the sprite on the screen, with no hit before the first pixel. -/
theorem drawXorsTheSpriteAndReportsCollision :
    Obligations.DrawXorsTheSpriteAndReportsCollision := by
  intro x y n s h
  obtain ⟨hpixel, hhit⟩ := s.stamped_drawn x y n
  refine ⟨_, exec_drw_inside x y h, hpixel, ?_, ?_, fun q hq => ?_⟩
  · rw [State.reg_setReg_same, flagByte_eq_one, hhit]
    exact or_iff_right Bool.false_ne_true
  · rw [State.reg_setReg_same]
    exact flagByte_eq_zero_or_one _
  · rw [State.reg_setReg_other _ _ hq, State.setVideo_reg]

/-- Settles O44: the second drawing finds the same sprite, and XOR with it twice is the identity. -/
theorem drawingTwiceRestoresTheScreen : Obligations.DrawingTwiceRestoresTheScreen := by
  intro x y n s t hx hy h hst
  have hframe : Frame (.drw x y n) s t := frame_drw hst
  have hI : t.I = s.I := hframe.elements .I (by simp [writtenElements])
  obtain ⟨t', hst', first, -⟩ := drawXorsTheSpriteAndReportsCollision x y n s h
  obtain rfl : t = t' := Host.Outcome.next.inj (hst.symm.trans hst')
  obtain ⟨u, htu, second, -⟩ := drawXorsTheSpriteAndReportsCollision x y n t (hI ▸ h)
  refine ⟨u, htu, Framebuffer.ext_pixel fun c r hc hr => ?_⟩
  rw [second c r hc hr, first c r hc hr, spriteOn_of_frame_drw hx hy hframe, Bool.xor_assoc,
    Bool.xor_self, Bool.xor_false]

end Sys2Proof.Machine
end

section
/-! PROOFS. Timer access and key input (45_timers_keys.md): what each instruction answers, said once;
what the updates leave unchanged; and the statements of the family. -/

namespace Sys2Proof.Machine

variable {s t : State}

/-! ### The key latch and a conditional skip -/

/-- The lowest held key is held, and no key below it is. -/
theorem State.lowestHeldKey_eq_some {k : Reg} (held : s.keypad[k.val] = true)
    (lowest : ∀ j : Reg, j < k → s.keypad[j.val] = false) : s.lowestHeldKey = some k := by
  refine List.find?_eq_some_iff_getElem.mpr
    ⟨held, k.val, by simp, List.getElem_finRange _, fun j hj => ?_⟩
  have hfree : s.keypad[j] = false := lowest ⟨j, hj.trans k.isLt⟩ hj
  simp [hfree]

theorem State.skipIf_eq_ite (s : State) (taken : Bool) :
    s.skipIf taken = if taken = true then { s with pc := s.pc + 2 } else s := rfl

theorem State.skipIf_not (s : State) (b : Bool) :
    s.skipIf (!b) = if b = true then s else { s with pc := s.pc + 2 } := by
  cases b <;> rfl

/-! ### What each instruction answers -/

theorem exec_ldVxDT (x : Reg) (s : State) : exec (.ldVxDT x) s = .next (s.setReg x s.DT) := rfl

theorem exec_ldDTVx (x : Reg) (s : State) : exec (.ldDTVx x) s = .next (s.setDT (s.reg x)) := rfl

theorem exec_ldSTVx (x : Reg) (s : State) : exec (.ldSTVx x) s = .next (s.setST (s.reg x)) := rfl

theorem exec_skp_of_lt {x : Reg} (h : (s.reg x).toNat < 16) :
    exec (.skp x) s = .next (s.skipIf s.keypad[(s.reg x).toNat]) := by
  simp only [exec, execSkp, State.keyHeld_of_lt h]

theorem exec_skp_of_ge {x : Reg} (h : 15 < (s.reg x).toNat) :
    exec (.skp x) s = s.execFault (.skp x) .keyIndexOutOfRange (.key (s.reg x)) := by
  simp only [exec, execSkp, State.keyHeld_of_ge h]

theorem exec_sknp_of_lt {x : Reg} (h : (s.reg x).toNat < 16) :
    exec (.sknp x) s = .next (s.skipIf (!s.keypad[(s.reg x).toNat])) := by
  simp only [exec, execSknp, State.keyHeld_of_lt h]

theorem exec_sknp_of_ge {x : Reg} (h : 15 < (s.reg x).toNat) :
    exec (.sknp x) s = s.execFault (.sknp x) .keyIndexOutOfRange (.key (s.reg x)) := by
  simp only [exec, execSknp, State.keyHeld_of_ge h]

theorem exec_ldVxK_of_some (x : Reg) {k : Reg} (h : s.lowestHeldKey = some k) :
    exec (.ldVxK x) s = .next (s.setReg x (BitVec.ofNat 8 k.val)) := by
  simp only [exec, execLdVxK, h]

theorem exec_ldVxK_of_none (x : Reg) (h : s.lowestHeldKey = none) :
    exec (.ldVxK x) s = .next s.rewindPc := by
  simp only [exec, execLdVxK, h]

/-! ### What the updates leave unchanged (10_state.md R39) -/

/-- A register write keeps the frame of an instruction that may write that register. -/
theorem frame_setReg {i : Instr} {x : Reg} (hV : .V ∈ writtenElements i)
    (hx : writesReg x i = true) (v : Byte) : Frame i s (s.setReg x v) := by
  refine .of_unchangedBut (fun e he => ?_) (fun _ r hr => ?_) (fun _ _ _ _ => rfl)
    (fun _ _ _ => rfl)
  · cases e with
    | V => exact absurd hV he
    | mem => exact fun _ => rfl
    | _ => rfl
  · have hne : r ≠ x := fun e => Bool.false_ne_true (hr.symm.trans (e ▸ hx))
    exact s.reg_setReg_other v hne

theorem frame_setDT {i : Instr} (h : .DT ∈ writtenElements i) (v : Byte) :
    Frame i s (s.setDT v) := by
  refine .of_unchangedBut (fun e he => ?_) (fun _ _ _ => rfl) (fun _ _ _ _ => rfl) (fun _ _ _ => rfl)
  cases e with
  | DT => exact absurd h he
  | mem => exact fun _ => rfl
  | _ => rfl

theorem frame_setST {i : Instr} (h : .ST ∈ writtenElements i) (v : Byte) :
    Frame i s (s.setST v) := by
  refine .of_unchangedBut (fun e he => ?_) (fun _ _ _ => rfl) (fun _ _ _ _ => rfl) (fun _ _ _ => rfl)
  cases e with
  | ST => exact absurd h he
  | mem => exact fun _ => rfl
  | _ => rfl

/-- An instruction that skips or halts the core keeps the frame of one that may write pc and status. -/
theorem frame_skip_or_halt {i : Instr} (hw : writtenElements i = [.pc, .status])
    (answer : (∃ taken, exec i s = .next (s.skipIf taken)) ∨
      ∃ record, exec i s = .next (s.raiseFatal record))
    (h : exec i s = .next t) : Frame i s t := by
  obtain ⟨taken, hskip⟩ | ⟨record, hhalt⟩ := answer
  · obtain rfl : t = s.skipIf taken := Host.Outcome.next.inj (h.symm.trans hskip)
    exact frame_skipIf (by simp [hw]) taken
  · obtain rfl : t = s.raiseFatal record := Host.Outcome.next.inj (h.symm.trans hhalt)
    exact frame_raiseFatal (by simp [hw]) record

/-- LD Vx,K writes Vx, or moves pc back. -/
theorem frame_ldVxK {x : Reg} (h : exec (.ldVxK x) s = .next t) : Frame (.ldVxK x) s t := by
  cases hkey : s.lowestHeldKey with
  | some k =>
    rw [exec_ldVxK_of_some x hkey] at h
    cases h
    exact frame_setReg (by simp [writtenElements]) (by simp [writesReg]) _
  | none =>
    rw [exec_ldVxK_of_none x hkey] at h
    cases h
    exact frame_setPc (by simp [writtenElements]) (s.pc - 2)

/-! ### The statements -/

/-- Settles O47: the search from key 0 up finds the lowest held key, and nothing when none is held. -/
theorem keyWaitTakesTheLowestHeldKeyOrRepeats :
    Obligations.KeyWaitTakesTheLowestHeldKeyOrRepeats := by
  refine fun x s => ⟨fun k held lowest => ?_, fun none_held => ?_⟩
  · refine ⟨_, exec_ldVxK_of_some x (State.lowestHeldKey_eq_some held lowest), ?_,
      regsOnly_setReg s x _⟩
    rw [State.reg_setReg_same, BitVec.toNat_ofNat]
    omega
  · exact exec_ldVxK_of_none x (State.lowestHeldKey_eq_none.mpr none_held)

/-- Settles O60: register and timer writes, and the key instructions with a second way to end: SKP and
SKNP may halt, LD Vx,K may repeat. -/
theorem timersKeysFrame : Obligations.TimersKeysFrame := by
  intro i s t hi h
  cases i with
  | ldVxDT x => cases h; exact frame_setReg (List.mem_singleton_self _) (by simp [writesReg]) _
  | ldDTVx x => cases h; exact frame_setDT (List.mem_singleton_self _) _
  | ldSTVx x => cases h; exact frame_setST (List.mem_singleton_self _) _
  | skp x =>
    exact frame_skip_or_halt rfl
      ((Nat.lt_or_ge _ 16).imp (⟨_, exec_skp_of_lt ·⟩) (⟨_, exec_skp_of_ge ·⟩)) h
  | sknp x =>
    exact frame_skip_or_halt rfl
      ((Nat.lt_or_ge _ 16).imp (⟨_, exec_sknp_of_lt ·⟩) (⟨_, exec_sknp_of_ge ·⟩)) h
  | ldVxK x => exact frame_ldVxK h
  | _ => simp [family] at hi

/-- Settles O45: one register write, and two timer writes that are the record updates stated. -/
theorem timerInstructionsMoveTheTimers : Obligations.TimerInstructionsMoveTheTimers := fun x s =>
  ⟨⟨_, exec_ldVxDT x s, s.reg_setReg_same x _, regsOnly_setReg s x _⟩,
    exec_ldDTVx x s, exec_ldSTVx x s, State.soundActive_iff.trans Nat.pos_iff_ne_zero⟩

/-- Settles O46: the latch has a key for Vx exactly if Vx is below 16. -/
theorem keySkipsReadTheLatch : Obligations.KeySkipsReadTheLatch := by
  refine fun x s => ⟨fun h => ⟨?_, ?_⟩, fun h => ⟨exec_skp_of_ge h, exec_sknp_of_ge h⟩⟩
  · rw [exec_skp_of_lt h, State.skipIf_eq_ite]
  · rw [exec_sknp_of_lt h, State.skipIf_not]

end Sys2Proof.Machine
end

section
/-! PROOFS. The tick (60_exceptions.md): the statement of the family, from the laws of the tick. -/

namespace Sys2Proof.Machine

/-- Settles O49: a tick on a running core is one `countDown` of each timer, which is the subtraction
of naturals; on a halted core it is the identity. -/
theorem tickCountsBothTimersDown : Obligations.TickCountsBothTimersDown := by
  refine fun s => ⟨fun running => ?_, s.tick_of_halted⟩
  have hticked : tickTimers s = { s with DT := countDown s.DT, ST := countDown s.ST } :=
    s.tick_of_running running
  rw [hticked]
  exact ⟨toNat_countDown s.DT, toNat_countDown s.ST, rfl⟩

end Sys2Proof.Machine
end

section
/-! PROOFS. The key wait's poll, and the core nothing was loaded into (70_reset_and_hazards.md): the two
ways a step ends that runs no instruction; a run as the states it passes; and the statements of the
family. -/

namespace Sys2Proof.Machine

variable {s t : State}

/-! ### A step that runs no instruction (30_encoding.md R76, R82) -/

theorem cycle_of_noOpWord (rnd : Byte) (hs : s.status = .running) (hf : s.Fetchable)
    (hd : decodeWord s.wordAtPc = none) :
    cycle rnd s = .next (s.beginStep rnd).advancePc.endStep := by
  have hw : decodeWord s.fetchWord = none := hd
  rw [cycle_of_running rnd hs, State.fetchAndRun, State.beginStep_fetchFault,
    State.fetchFault_eq_none.mpr hf]
  simp only [State.beginStep_fetchWord, State.runWord, hw, endOutcome]

theorem cycle_of_fetchFault {record : FaultRecord} (rnd : Byte) (hs : s.status = .running)
    (hf : s.fetchFault = some record) :
    cycle rnd s = .next ((s.beginStep rnd).raiseFatal record).endStep := by
  rw [cycle_of_running rnd hs, State.fetchAndRun, State.beginStep_fetchFault, hf]
  rfl

/-! ### The word at pc -/

theorem State.wordAtPc_congr (hmem : t.mem = s.mem) (hpc : t.pc = s.pc) :
    t.wordAtPc = s.wordAtPc := by
  simp only [State.wordAtPc, State.readByte, hmem, hpc]

/-- Empty memory reads 0x0000 everywhere, which is a no-op word (D8). -/
theorem State.decodeWord_wordAtPc_of_mem_nil (h : s.mem = []) : decodeWord s.wordAtPc = none := by
  have hword : s.wordAtPc = 0x0000 := by
    simp only [State.wordAtPc, State.readByte, h, Memory.read]
    decide
  rw [hword]
  decide

/-! ### A run passes the states its steps lead to -/

theorem core_run_add {m n : Nat} (h : Sys2Proof.core.run m s = .next t) :
    Sys2Proof.core.run (m + n) s = Sys2Proof.core.run n t := by
  induction m generalizing s with
  | zero => cases h; rw [Nat.zero_add]
  | succ m ih =>
    rw [Nat.succ_add]
    simp only [Host.Core.run] at h ⊢
    cases hstep : Sys2Proof.core.step s with
    | next u => rw [hstep] at h; exact ih h
    | fault r => rw [hstep] at h; cases h
    | refused r => rw [hstep] at h; cases h

theorem core_run_one (s : State) : Sys2Proof.core.run 1 s = step s := by
  simp only [Host.Core.run]
  cases hstep : Sys2Proof.core.step s <;> exact hstep.symm

/-- `n` steps lead along any sequence of states whose first `n` are each stepped to the next. -/
theorem core_run_of_steps {f : Nat → State} {n : Nat}
    (h : ∀ k, k < n → step (f k) = .next (f (k + 1))) :
    Sys2Proof.core.run n (f 0) = .next (f n) := by
  induction n with
  | zero => rfl
  | succ n ih =>
    rw [core_run_add (ih fun k hk => h k (by omega))]
    exact (core_run_one _).trans (h n (by omega))

/-! ### The unloaded core (R257) -/

/-- Reset with nothing loaded, after `n` no-ops. -/
def unloadedAfter (n : Nat) : State :=
  { State.reset with
    pc := BitVec.ofNat 16 (0x200 + 2 * n)
    phase := if n = 0 then .setup else .run
    draws := n }

theorem step_unloadedAfter {n : Nat} (h : n < 1792) :
    step (unloadedAfter n) = .next (unloadedAfter (n + 1)) := by
  have hpc : (unloadedAfter n).pc.toNat = 0x200 + 2 * n := by
    simp only [unloadedAfter, BitVec.toNat_ofNat]; omega
  have hfetch : (unloadedAfter n).Fetchable := ⟨.inl (by omega), by omega⟩
  have hadvance : BitVec.ofNat 16 (0x200 + 2 * n) + 2 = BitVec.ofNat 16 (0x200 + 2 * (n + 1)) :=
    (BitVec.ofNat_add _ _).symm
  calc step (unloadedAfter n)
    _ = .next ((unloadedAfter n).beginStep _).advancePc.endStep :=
      cycle_of_noOpWord _ rfl hfetch (State.decodeWord_wordAtPc_of_mem_nil rfl)
    _ = .next { unloadedAfter (n + 1) with pc := BitVec.ofNat 16 (0x200 + 2 * n) + 2 } := rfl
    _ = .next (unloadedAfter (n + 1)) := by rw [hadvance]; rfl

theorem core_run_reset_unloaded :
    Sys2Proof.core.run 1792 State.reset = .next (unloadedAfter 1792) :=
  core_run_of_steps (f := unloadedAfter) fun _ => step_unloadedAfter

/-! ### The statements -/

/-- Settles O48: with no key held LD Vx,K takes the step's advance back, and memory is as before, so the
same word stands at the same pc. -/
theorem keyWaitPollsAtItsOwnAddress : Obligations.KeyWaitPollsAtItsOwnAddress := by
  intro x s hs hf hd none_held
  have hkey : (s.beginStep (Config.randomByte s.draws)).advancePc.lowestHeldKey = none :=
    State.lowestHeldKey_eq_none.mpr none_held
  have hstep : step s = .next
      (s.beginStep (Config.randomByte s.draws)).advancePc.rewindPc.endStep :=
    (cycle_of_decodeWord _ hs hf hd).trans (congrArg endOutcome (exec_ldVxK_of_none x hkey))
  refine ⟨_, hstep, by simp [hs], by simp, by simp, ?_⟩
  rw [State.wordAtPc_congr (s := s) (by simp) (by simp)]
  exact hd

/-- Settles O55: 1792 no-ops lead to 0x1000, where the fetch check fails, and a halted core answers its
record. -/
theorem unloadedCoreSlidesToTheEndOfMemory : Obligations.UnloadedCoreSlidesToTheEndOfMemory := by
  unfold Obligations.UnloadedCoreSlidesToTheEndOfMemory
  intro record
  have hfault : (unloadedAfter 1792).fetchFault = some record := by decide
  have hhalt : Sys2Proof.core.run 1793 State.reset = .next _ :=
    (core_run_add (n := 1) core_run_reset_unloaded).trans
      ((core_run_one _).trans (cycle_of_fetchFault _ rfl hfault))
  refine ⟨⟨_, core_run_reset_unloaded, rfl, rfl⟩, ⟨_, hhalt, rfl, rfl⟩, ?_⟩
  exact (core_run_add (n := 1) hhalt).trans ((core_run_one _).trans (cycle_of_halted _ rfl))

end Sys2Proof.Machine
end

section
/-! PROOFS. The decoder, the encoder and the opcode map (30_encoding.md R73 to R77): an instruction's word
decodes to it, a word that decodes is its instruction's word, and a word's kind and key alone say whether
it decodes and which rows select it. -/

namespace Sys2Proof.Machine

variable {w c : Word}

/-! ### The word of an instruction decodes to it -/

theorem decodeWord_encode {i : Instr} (hi : i.WellFormed) : decodeWord (encode i) = some i := by
  cases i with
  | drw x y n =>
    have hn : n < 16 := of_decide_eq_true hi
    simp [encode, decodeWord, fieldKind_wordXYN, fieldX_wordXYN, fieldY_wordXYN, fieldN_wordXYN,
      regOfField_fieldOfReg, Nat.mod_eq_of_lt hn]
  | jp | call | ldI | jpV0 =>
    simp [encode, decodeWord, fieldKind_wordNNN, fieldNNN_wordNNN]
  | seReg | sneReg | ldReg | orReg | andReg | xorReg | addReg | sub | shr | subn | shl =>
    simp [encode, decodeWord, decodeKind8, fieldKind_wordXYN, fieldX_wordXYN, fieldY_wordXYN,
      fieldN_wordXYN, regOfField_fieldOfReg]
  | _ =>
    simp [encode, decodeWord, decodeKind0, decodeKindE, decodeKindF, fieldKind_wordXKK,
      fieldX_wordXKK, fieldKK_wordXKK, regOfField_fieldOfReg]

theorem tableWord_toNat (w : Word) : tableWord 16 w.toNat = w := by
  rw [tableWord, Nat.mod_eq_of_lt w.isLt, BitVec.ofNat_toNat, BitVec.setWidth_eq]

/-- The bytes of a word that decodes, read as an instruction and what follows it. -/
theorem decode_bytes_of_decodeWord {i : Instr} (h : decodeWord w = some i) (rest : List Byte) :
    decode (highByte w :: lowByte w :: rest) = .ok (i, rest) := by
  simp only [decode, wordOfBytes_high_low, h]

/-! ### A word that decodes is its instruction's word -/

theorem wordXKK_of_kind {k : Nibble} (hk : fieldKind w = k) : wordXKK k (fieldX w) (fieldKK w) = w :=
  hk ▸ wordXKK_fields w

theorem wordXYN_of_kind {k : Nibble} (hk : fieldKind w = k) :
    wordXYN k (fieldX w) (fieldY w) (fieldN w) = w := hk ▸ wordXYN_fields w

theorem wordNNN_of_kind {k : Nibble} (hk : fieldKind w = k) : wordNNN k (fieldNNN w) = w :=
  hk ▸ wordNNN_fields w

theorem wordXKK_of_key {k : Nibble} {kk : Byte} (hk : fieldKind w = k) (hkk : fieldKK w = kk) :
    wordXKK k (fieldX w) kk = w := hkk ▸ wordXKK_of_kind hk

theorem wordXYN_of_key {k n : Nibble} (hk : fieldKind w = k) (hn : fieldN w = n) :
    wordXYN k (fieldX w) (fieldY w) n = w := hn ▸ wordXYN_of_kind hk

theorem encode_of_decodeKind0 {i : Instr} (hk : fieldKind w = 0x0#4) (h : decodeKind0 w = some i) :
    encode i = w ∧ i.WellFormed := by
  unfold decodeKind0 at h
  split_ifs at h with hkk hkk <;> cases h <;> exact ⟨wordXKK_of_key hk hkk, rfl⟩

theorem encode_of_decodeKind8 {i : Instr} (hk : fieldKind w = 0x8#4) (h : decodeKind8 w = some i) :
    encode i = w ∧ i.WellFormed := by
  unfold decodeKind8 at h
  split_ifs at h with hn hn hn hn hn hn hn hn hn <;> cases h <;> refine ⟨?_, rfl⟩ <;>
    simpa only [encode, fieldOfReg_regOfField] using wordXYN_of_key hk hn

theorem encode_of_decodeKindE {i : Instr} (hk : fieldKind w = 0xE#4) (h : decodeKindE w = some i) :
    encode i = w ∧ i.WellFormed := by
  unfold decodeKindE at h
  split_ifs at h with hkk hkk <;> cases h <;> refine ⟨?_, rfl⟩ <;>
    simpa only [encode, fieldOfReg_regOfField] using wordXKK_of_key hk hkk

theorem encode_of_decodeKindF {i : Instr} (hk : fieldKind w = 0xF#4) (h : decodeKindF w = some i) :
    encode i = w ∧ i.WellFormed := by
  unfold decodeKindF at h
  split_ifs at h with hkk hkk hkk hkk hkk hkk hkk hkk hkk <;> cases h <;> refine ⟨?_, rfl⟩ <;>
    simpa only [encode, fieldOfReg_regOfField] using wordXKK_of_key hk hkk

theorem encode_of_decodeWord {i : Instr} (h : decodeWord w = some i) : encode i = w ∧ i.WellFormed := by
  unfold decodeWord at h
  split at h
  case h_1 hk => exact encode_of_decodeKind0 hk h
  case h_9 hk => exact encode_of_decodeKind8 hk h
  case h_15 hk => exact encode_of_decodeKindE hk h
  case h_16 hk => exact encode_of_decodeKindF hk h
  case h_14 hk =>
    cases h
    refine ⟨?_, decide_eq_true (fieldN w).isLt⟩
    simpa only [encode, fieldOfReg_regOfField, BitVec.ofNat_toNat, BitVec.setWidth_eq]
      using wordXYN_of_kind hk
  case h_2 hk | h_3 hk | h_11 hk | h_12 hk =>
    cases h
    exact ⟨wordNNN_of_kind hk, rfl⟩
  case h_6 hk | h_10 hk =>
    cases h
    refine ⟨?_, rfl⟩
    simpa only [encode, fieldOfReg_regOfField] using wordXYN_of_kind hk
  case h_4 hk | h_5 hk | h_7 hk | h_8 hk | h_13 hk =>
    cases h
    refine ⟨?_, rfl⟩
    simpa only [encode, fieldOfReg_regOfField] using wordXKK_of_kind hk
  case h_17 => cases h

/-! ### The opcode map -/

theorem OpcodeRow.selects_iff {r : OpcodeRow} : r.selects w = true ↔ w &&& r.mask = r.code :=
  decide_eq_true_iff

theorem rowOf_selects_encode (i : Instr) : (rowOf i).selects (encode i) = true := by
  cases i with
  | jp | call | ldI | jpV0 => exact Laws.EncodesToItsRow.of_kind_nnn rfl
  | seImm | sneImm | ldImm | addImm | rnd => exact Laws.EncodesToItsRow.of_kind_xkk rfl
  | seReg | sneReg | drw => exact Laws.EncodesToItsRow.of_kind_xyn rfl
  | ldReg | orReg | andReg | xorReg | addReg | sub | shr | subn | shl =>
    exact Laws.EncodesToItsRow.of_xyn rfl
  | _ => exact Laws.EncodesToItsRow.of_xkk rfl

theorem rowOf_mem_opcodeRows (i : Instr) : rowOf i ∈ opcodeRows := by
  cases i <;> simp only [rowOf] <;> decide

/-- Two rows that select one word have codes that agree where both masks look. -/
theorem OpcodeRow.codes_agree {a b : OpcodeRow} (ha : a.selects w = true) (hb : b.selects w = true) :
    a.code &&& b.mask = b.code &&& a.mask := by
  rw [← OpcodeRow.selects_iff.mp ha, ← OpcodeRow.selects_iff.mp hb]
  ac_rfl

/-- No two rows of the map have codes that agree where both masks look. -/
theorem opcodeRows_codes_disagree : ∀ a ∈ opcodeRows, ∀ b ∈ opcodeRows,
    a.code &&& b.mask = b.code &&& a.mask → a = b := by
  decide

/-- Whether a word decodes depends on its kind alone and, in the kinds that have a key, on the key
(R73, R74). -/
theorem decodeWord_isSome_congr (hk : fieldKind w = fieldKind c)
    (hkk : fieldKind c = 0x0#4 ∨ fieldKind c = 0xE#4 ∨ fieldKind c = 0xF#4 → fieldKK w = fieldKK c)
    (hn : fieldKind c = 0x8#4 → fieldN w = fieldN c) :
    (decodeWord w).isSome = (decodeWord c).isSome := by
  unfold decodeWord
  rw [hk]
  split
  case h_1 h =>
    simp only [decodeKind0, hkk (.inl h), apply_ite Option.isSome, Option.isSome_some]
  case h_9 h => simp only [decodeKind8, hn h, apply_ite Option.isSome, Option.isSome_some]
  case h_15 h =>
    simp only [decodeKindE, hkk (.inr (.inl h)), apply_ite Option.isSome, Option.isSome_some]
  case h_16 h =>
    simp only [decodeKindF, hkk (.inr (.inr h)), apply_ite Option.isSome, Option.isSome_some]
  all_goals rfl

/-- Where a row's mask is all ones, a word it selects has the bits of its code. -/
theorem OpcodeRow.extractLsb'_eq_of_selects {r : OpcodeRow} {start len : Nat} (h : r.selects w = true)
    (hmask : r.mask.extractLsb' start len = BitVec.allOnes len) :
    w.extractLsb' start len = r.code.extractLsb' start len := by
  rw [← OpcodeRow.selects_iff.mp h, BitVec.extractLsb'_and, hmask, BitVec.and_allOnes]

/-- Every mask covers the kind, and the key of the kinds that have one (R73, R74). -/
theorem opcodeRows_masks_cover : ∀ r ∈ opcodeRows, fieldKind r.mask = BitVec.allOnes 4 ∧
    (fieldKind r.code = 0x0#4 ∨ fieldKind r.code = 0xE#4 ∨ fieldKind r.code = 0xF#4 →
      fieldKK r.mask = BitVec.allOnes 8) ∧
    (fieldKind r.code = 0x8#4 → fieldN r.mask = BitVec.allOnes 4) := by
  decide

theorem opcodeRows_codes_decode : ∀ r ∈ opcodeRows, (decodeWord r.code).isSome = true := by
  decide

theorem decodeWord_isSome_of_selects {r : OpcodeRow} (hr : r ∈ opcodeRows) (h : r.selects w = true) :
    (decodeWord w).isSome = true := by
  obtain ⟨kind, kk, n⟩ := opcodeRows_masks_cover r hr
  rw [decodeWord_isSome_congr (OpcodeRow.extractLsb'_eq_of_selects h kind)
    (fun hk => OpcodeRow.extractLsb'_eq_of_selects h (kk hk))
    (fun hk => OpcodeRow.extractLsb'_eq_of_selects h (n hk))]
  exact opcodeRows_codes_decode r hr

/-! ### The statements -/

/-- Settles O1: a field read from the word it was put in is that field. -/
theorem decodeOfEncodeIsTheInstruction : Obligations.DecodeOfEncodeIsTheInstruction := by
  intro i hi
  have hdecode := decodeWord_encode hi
  refine ⟨hdecode, decode_bytes_of_decodeWord hdecode, ?_⟩
  rw [decodeTableWord, tableWord_toNat, decode_bytes_of_decodeWord hdecode]

/-- Settles O2: a word is the sum of its fields, whichever kind they are read for. -/
theorem encodeOfDecodeIsTheWord : Obligations.EncodeOfDecodeIsTheWord :=
  fun _ _ => encode_of_decodeWord

/-- Settles O3: a decoded word is its instruction's, which its row selects; a selected word decodes
because the row's code does. -/
theorem decodeAgreesWithTheOpcodeMap : Obligations.DecodeAgreesWithTheOpcodeMap := by
  have row_selects : ∀ (w : Word) (i : Instr), decodeWord w = some i →
      rowOf i ∈ opcodeRows ∧ (rowOf i).selects w = true := fun w i h =>
    ⟨rowOf_mem_opcodeRows i, (encode_of_decodeWord h).1 ▸ rowOf_selects_encode i⟩
  refine ⟨fun w => ⟨fun hnone r hr => ?_, fun hall => ?_⟩, row_selects, fun w a ha b hb hsa hsb =>
    opcodeRows_codes_disagree a ha b hb (OpcodeRow.codes_agree hsa hsb)⟩
  · refine Bool.eq_false_iff.mpr fun h => ?_
    have hsome := decodeWord_isSome_of_selects hr h
    rw [hnone] at hsome
    cases hsome
  · refine Option.eq_none_iff_forall_ne_some.mpr fun i hi => ?_
    obtain ⟨hmem, hsel⟩ := row_selects w i hi
    exact Bool.false_ne_true ((hall _ hmem).symm.trans hsel)

/-- Settles O4: the decoder computes on fourteen closed words. -/
theorem sampleWordsDecode : Obligations.SampleWordsDecode := by
  unfold Obligations.SampleWordsDecode
  decide

end Sys2Proof.Machine
end

section
/-! PROOFS. What every instruction does: it completes, with status as before or halted by its own kind of
fault (60_exceptions.md R213 to R217), and it keeps its frame (10_state.md R39); and the statements about
single instructions. -/

namespace Sys2Proof.Machine

variable {s t : State}

/-! ### Frames of the register instructions -/

/-- Writes to registers an instruction may write keep its frame. -/
theorem frame_of_regsOnly {i : Instr} {rs : List Reg} (hV : .V ∈ writtenElements i)
    (hrs : ∀ r ∈ rs, writesReg r i = true) (h : RegsOnly rs s t) : Frame i s t := by
  obtain ⟨hst, hregs⟩ := h
  refine .of_unchangedBut (fun e he => ?_) (fun _ r hr => ?_) (fun _ j _ _ => ?_) (fun _ a _ => ?_)
  · rw [hst]
    cases e with
    | V => exact absurd hV he
    | mem => exact fun _ => rfl
    | _ => rfl
  · exact hregs r fun hmem => Bool.false_ne_true (hr.symm.trans (hrs r hmem))
  · rw [hst]
  · rw [hst]; rfl

/-- Settles O57: one register write, or result and flag in either order. -/
theorem aluFrame : Obligations.AluFrame := by
  intro i s t hi h
  cases i with
  | ldImm x | addImm x | ldReg x | orReg x | andReg x | xorReg x | rnd x =>
    cases h
    exact frame_setReg (List.mem_singleton_self _) (by simp [writesReg]) _
  | addReg x =>
    cases h
    exact frame_of_regsOnly (List.mem_singleton_self _) (by simp [writesReg])
      (regsOnly_resultThenFlag s x _ _)
  | sub x | shr x | subn x | shl x =>
    cases h
    exact frame_of_regsOnly (List.mem_singleton_self _) (by simp [writesReg])
      (regsOnly_flagThenResult s x _ _)
  | _ => simp [family] at hi

/-- Every instruction keeps its frame: the frames of the five families. -/
theorem frame_exec {i : Instr} (h : exec i s = .next t) : Frame i s t := by
  cases hf : family i with
  | controlFlow => exact controlFlowFrame i s t hf h
  | alu => exact aluFrame i s t hf h
  | indexMemory => exact indexMemoryFrame i s t hf h
  | display => exact displayFrame i s t hf h
  | timersKeys => exact timersKeysFrame i s t hf h

theorem exec_same {i : Instr} {e : Element} (he : e ∉ writtenElements i) (h : exec i s = .next t) :
    e.same s t := (frame_exec h).elements e he

/-- The elements of the host and of the step itself, which no instruction writes. -/
def hostElements : List Element := [.keypad, .phase, .fontLoaded, .romLoaded, .rnd, .draws, .params]

theorem not_mem_writtenElements {e : Element} (he : e ∈ hostElements) (i : Instr) :
    e ∉ writtenElements i := by
  revert e
  cases i <;> simp only [writtenElements] <;> decide

/-! ### Every instruction completes or halts the core -/

/-- The outcome `o` of `i` from `s` is a next state with status as before, or the fatal condition of
`i`'s own kind. -/
def CompletesOrHalts (i : Instr) (s : State) (o : Result) : Prop :=
  (∃ t, o = .next t ∧ t.status = s.status) ∨
  ∃ kind detail, ownFault i = some kind ∧ o = s.execFault i kind detail

theorem withRange_completesOrHalts {i : Instr} (hi : ownFault i = some .memoryOutOfRange) (n : Nat)
    (ht : t.status = s.status) : CompletesOrHalts i s (s.withRange i n t) := by
  by_cases hn : n = 0 ∨ s.I.toNat + n ≤ 0x1000
  · exact .inl ⟨t, State.withRange_inside i t hn, ht⟩
  · exact .inr ⟨_, _, hi, State.withRange_outside i t (by omega) (by omega)⟩

theorem exec_completesOrHalts (i : Instr) (s : State) : CompletesOrHalts i s (exec i s) := by
  cases i with
  | call nnn =>
    obtain hsp | hsp : s.sp.val < 16 ∨ s.sp.val = 16 := by omega
    · exact .inl ⟨_, exec_call_of_lt nnn hsp, rfl⟩
    · exact .inr ⟨_, _, rfl, exec_call_of_full nnn hsp⟩
  | ret ign =>
    by_cases hsp : s.sp.val = 0
    · exact .inr ⟨_, _, rfl, exec_ret_of_empty ign hsp⟩
    · exact .inl ⟨_, exec_ret_of_pos ign hsp, rfl⟩
  | skp x =>
    obtain hx | hx := Nat.lt_or_ge (s.reg x).toNat 16
    · exact .inl ⟨_, exec_skp_of_lt hx, s.skipIf_status _⟩
    · exact .inr ⟨_, _, rfl, exec_skp_of_ge hx⟩
  | sknp x =>
    obtain hx | hx := Nat.lt_or_ge (s.reg x).toNat 16
    · exact .inl ⟨_, exec_sknp_of_lt hx, s.skipIf_status _⟩
    · exact .inr ⟨_, _, rfl, exec_sknp_of_ge hx⟩
  | ldVxK x =>
    cases hkey : s.lowestHeldKey with
    | some k => exact .inl ⟨_, exec_ldVxK_of_some x hkey, rfl⟩
    | none => exact .inl ⟨_, exec_ldVxK_of_none x hkey, rfl⟩
  | drw | ldB | storeRegs | loadRegs => exact withRange_completesOrHalts rfl _ rfl
  | seImm | sneImm | seReg | sneReg => exact .inl ⟨_, rfl, s.skipIf_status _⟩
  | sub | shr | subn | shl => exact .inl ⟨_, rfl, s.flagThenResult_status _ _ _⟩
  | _ => exact .inl ⟨_, rfl, rfl⟩

theorem exec_completes (i : Instr) (s : State) : ∃ t, exec i s = .next t := by
  obtain ⟨t, h, -⟩ | ⟨kind, detail, -, h⟩ := exec_completesOrHalts i s
  · exact ⟨t, h⟩
  · exact ⟨_, h⟩

/-- Settles O11: a halted state is the one a fault of the instruction's own kind makes. -/
theorem execHaltsOnlyWithItsOwnFault : Obligations.ExecHaltsOnlyWithItsOwnFault := by
  intro i s hs
  obtain ⟨t, h, hstatus⟩ | ⟨kind, detail, hkind, h⟩ := exec_completesOrHalts i s
  · exact ⟨t, h, .inl (hstatus.trans hs)⟩
  · exact ⟨_, h, .inr ⟨_, rfl, hkind, rfl, rfl⟩⟩

/-- Settles O12: a fault changes status alone. -/
theorem executionFaultsArePrecise : Obligations.ExecutionFaultsArePrecise := by
  intro i s t record hs h hhalted
  obtain ⟨t', h', hstatus⟩ | ⟨kind, detail, -, h'⟩ := exec_completesOrHalts i s
  · obtain rfl : t = t' := Host.Outcome.next.inj (h.symm.trans h')
    rw [hstatus, hs] at hhalted
    cases hhalted
  · obtain rfl := Host.Outcome.next.inj (h.symm.trans h')
    cases hhalted
    rfl

/-- Settles O5: no meaning reads the ignored bits but the record of a RET that faults. -/
theorem ignoredBitsDoNotAffectExecution : Obligations.IgnoredBitsDoNotAffectExecution := by
  refine fun a b x y s => ⟨rfl, fun hsp => ?_, rfl, rfl, rfl, rfl⟩
  rw [exec_ret_of_pos a hsp, exec_ret_of_pos b hsp]

/-! ### Destination VF (42_alu.md R133) -/

theorem RegsOnly.mono {rs qs : List Reg} (h : RegsOnly rs s t) (hsub : rs ⊆ qs) : RegsOnly qs s t := by
  obtain ⟨hst, hregs⟩ := h
  exact ⟨hst, fun r hr => hregs r fun hmem => hr (hsub hmem)⟩

theorem regsOnly_flagThenResult_VF (s : State) (r : Byte) (f : Bool) :
    RegsOnly [VF] s (s.flagThenResult VF r f) :=
  (regsOnly_flagThenResult s VF r f).mono (by simp)

/-- With destination VF the write that comes last stays: the result in the document's order, else the
flag. -/
theorem State.toNat_reg_flagThenResult_VF (s : State) (r : Byte) (f : Bool) :
    ((s.flagThenResult VF r f).reg VF).toNat =
      if s.params.vfWriteOrder = .docOrder then r.toNat else (flagByte f).toNat := by
  rw [State.reg_flagThenResult]
  by_cases hdoc : s.params.vfWriteOrder = .docOrder
  · rw [if_pos ⟨rfl, .inr hdoc⟩, if_pos hdoc]
  · rw [if_neg (by simp [hdoc]), if_pos rfl, if_neg hdoc]

theorem toNat_flagByte_lowBitOut (a : Byte) : (flagByte (lowBitOut a)).toNat = a.toNat % 2 := by
  rw [lowBitOut, toNat_flagByte_decide]
  split <;> omega

theorem toNat_flagByte_highBitOut (a : Byte) : (flagByte (highBitOut a)).toNat = a.toNat / 128 := by
  rw [highBitOut, toNat_flagByte_decide]
  split <;> omega

/-- Settles O34: ADD Vx,Vy always writes the flag last; the others as VF_WRITE_ORDER says. -/
theorem vfAsDestinationFollowsTheWriteOrder : Obligations.VfAsDestinationFollowsTheWriteOrder := by
  intro y ign s
  refine ⟨⟨_, exec_addReg VF y s, (regsOnly_resultThenFlag s VF _ _).mono (by simp), ?_⟩,
    ⟨_, exec_sub VF y s, regsOnly_flagThenResult_VF s _ _, ?_⟩,
    ⟨_, exec_shr VF ign s, regsOnly_flagThenResult_VF s _ _, ?_⟩,
    ⟨_, exec_subn VF y s, regsOnly_flagThenResult_VF s _ _, ?_⟩,
    ⟨_, exec_shl VF ign s, regsOnly_flagThenResult_VF s _ _, ?_⟩⟩
  · rw [State.reg_resultThenFlag_flag, toNat_flagByte_carryOut]
  · rw [State.toNat_reg_flagThenResult_VF, toNat_diffByte, toNat_flagByte_noBorrow]
  · rw [State.toNat_reg_flagThenResult_VF, toNat_halfByte, toNat_flagByte_lowBitOut]
  · rw [State.toNat_reg_flagThenResult_VF, toNat_diffByte, toNat_flagByte_noBorrow]
  · rw [State.toNat_reg_flagThenResult_VF, toNat_doubleByte, toNat_flagByte_highBitOut]

/-! ### Transfers out of range, and stores over the next word -/

/-- A ranged access that reaches beyond memory halts the core with the lowest address it may not touch. -/
theorem State.withRange_eq_halted {i : Instr} {n : Nat} (hn : n ≠ 0) (h : 0x1000 < s.I.toNat + n) :
    s.withRange i n t = .next { s with status := .halted ⟨.memoryOutOfRange, some (s.pc - 2),
      some (encode i), .addr (max s.I.toNat 0x1000)⟩ } :=
  State.withRange_outside i t hn h

/-- Settles O41: the range check of each transfer fails before it has any effect. -/
theorem transfersOutOfRangeHaltUnchanged : Obligations.TransfersOutOfRangeHaltUnchanged := by
  intro x y n s
  refine ⟨fun h => ?_, fun h => ⟨?_, ?_⟩, fun hn h => ?_⟩
  · exact State.withRange_eq_halted (by omega) (by omega)
  · exact State.withRange_eq_halted (Nat.succ_ne_zero x.val) (Nat.succ_lt_succ h)
  · exact State.withRange_eq_halted (Nat.succ_ne_zero x.val) (Nat.succ_lt_succ h)
  · exact State.withRange_eq_halted (by omega) (by omega)

theorem toNat_wordOfBytes (hi lo : Byte) : (wordOfBytes hi lo).toNat = hi.toNat * 256 + lo.toNat := by
  rw [wordOfBytes, BitVec.toNat_ofNat]
  omega

/-- Settles O19: the fetch reads at pc and pc + 1 the bytes stored for registers a and a + 1. -/
theorem storedBytesAreFetchedNext : Obligations.StoredBytesAreFetchedNext := by
  intro x a b s h hb hbx hpc
  have hax : a ≤ x := Fin.le_def.mpr (by have hval := Fin.le_def.mp hbx; omega)
  have hpc' : s.pc.toNat + 1 = s.I.toNat + b.val := by omega
  refine ⟨_, exec_storeRegs_inside h, rfl, ?_⟩
  rw [State.fetchWord, toNat_wordOfBytes, State.storeBytes_pc, hpc', hpc,
    State.readByte_storeBytes_regBlock s s.I.toNat hax,
    State.readByte_storeBytes_regBlock s s.I.toNat hbx]

end Sys2Proof.Machine
end

section
/-! PROOFS. The step (30_encoding.md R81 to R86): how it ends, what every step does and leaves unchanged,
and its result; and the statements about steps. -/

namespace Sys2Proof.Machine

variable {s t u : State}

/-! ### How a step ends -/

theorem countDown_eq (v : Byte) : countDown v = BitVec.ofNat 8 (v.toNat - 1) := by
  apply BitVec.eq_of_toNat_eq
  rw [toNat_countDown, BitVec.toNat_ofNat]
  omega

/-- A step ends with both timers down by at most 1 exactly if it ticks and has left the core running. -/
theorem State.endStep_eq (s : State) : s.endStep =
    if s.params.tickOnStep = true ∧ s.status = .running then
      { s with
        rnd := 0, DT := BitVec.ofNat 8 (s.DT.toNat - 1), ST := BitVec.ofNat 8 (s.ST.toNat - 1) }
    else { s with rnd := 0 } := by
  rw [State.endStep]
  by_cases htick : s.params.tickOnStep = true
  · cases hs : s.status with
    | running => rw [if_pos htick, if_pos ⟨htick, rfl⟩, ← countDown_eq, ← countDown_eq]; rfl
    | halted record => rw [if_pos htick, if_neg (by simp)]; rfl
  · rw [if_neg htick, if_neg fun h => htick h.1]

theorem State.endStep_of_halted {record : FaultRecord} (h : s.status = .halted record) :
    s.endStep = { s with rnd := 0 } := by
  rw [State.endStep_eq, if_neg (by simp [h])]

/-- The random byte is gone after the step. -/
theorem State.endStep_withRnd (s : State) (b : Byte) : { s with rnd := b }.endStep = s.endStep := rfl

theorem cycle_of_exec {i : Instr} (rnd : Byte) (hs : s.status = .running) (hf : s.Fetchable)
    (hd : decodeWord s.wordAtPc = some i) (hexec : exec i (s.beginStep rnd).advancePc = .next u) :
    cycle rnd s = .next u.endStep := by
  rw [cycle_of_decodeWord rnd hs hf hd, hexec, endOutcome]

theorem decodeWord_wordAtPc_of_decode {i : Instr}
    (h : decode [s.readByte s.pc.toNat, s.readByte (s.pc.toNat + 1)] = .ok (i, [])) :
    decodeWord s.wordAtPc = some i := by
  simp only [decode] at h
  cases hd : decodeWord (wordOfBytes (s.readByte s.pc.toNat) (s.readByte (s.pc.toNat + 1))) with
  | none => rw [hd] at h; cases h
  | some j => rw [hd] at h; cases h; exact hd

theorem State.fetchFault_of_reserved (hpc : s.pc.toNat < 0x200)
    (hp : s.params.faultOnReservedFetch = true) :
    s.fetchFault = some ⟨.reservedFetch, some s.pc, none, .none⟩ := by
  rw [State.fetchFault, if_pos ⟨hpc, hp⟩]

theorem State.fetchFault_of_high (hpc : 0xFFF ≤ s.pc.toNat) : s.fetchFault =
    some ⟨.memoryOutOfRange, some s.pc, none, .addr (max s.pc.toNat 0x1000)⟩ := by
  have hrange : outOfRange s.pc.toNat 2 = some (max s.pc.toNat 0x1000) :=
    outOfRange_eq_some.mpr ⟨by omega, by omega, rfl⟩
  have hbase : ¬ (s.pc.toNat < programBase ∧ s.params.faultOnReservedFetch = true) := by
    rw [programBase]; omega
  rw [State.fetchFault, if_neg hbase, hrange]

/-! ### The statements about how a step runs -/

/-- Settles O6: the state the instruction runs on is the one the step has begun with, advanced. -/
theorem stepRunsTheDecodedInstruction : Obligations.StepRunsTheDecodedInstruction := by
  intro s u i hs hf hd hexec
  rw [step, cycle_of_exec _ hs hf (decodeWord_wordAtPc_of_decode hd) hexec, State.endStep_eq]

/-- Settles O7: after the advance only the end of the step is left. -/
theorem noOpWordsOnlyAdvancePc : Obligations.NoOpWordsOnlyAdvancePc := by
  intro s hs hf hd
  rw [step, cycle_of_noOpWord _ hs hf hd, State.endStep_eq]
  simp only [State.advancePc_params, State.beginStep_params, State.advancePc_status,
    State.beginStep_status, hs, and_true]
  rfl

/-- Settles O8: the two checks in their order, and a halted step does not tick. -/
theorem fetchChecksHaltTheCore : Obligations.FetchChecksHaltTheCore := by
  refine fun s hs => ⟨fun hpc hp => ?_, fun hpc => ?_⟩
  · rw [step, cycle_of_fetchFault _ hs (State.fetchFault_of_reserved hpc hp),
      State.endStep_of_halted (State.raiseFatal_status _ _)]
    rfl
  · rw [step, cycle_of_fetchFault _ hs (State.fetchFault_of_high hpc),
      State.endStep_of_halted (State.raiseFatal_status _ _)]
    rfl

/-- Settles O9: a halted core is asked for nothing but its record. -/
theorem haltedCoreAnswersItsRecord : Obligations.HaltedCoreAnswersItsRecord := by
  refine fun s record hs => ⟨cycle_of_halted _ hs, fun rnd => ?_⟩
  rw [cycleOutput, cycle_of_halted rnd hs]

/-- Settles O10: a step halts at the fetch, runs a no-op word, or runs an instruction, which completes. -/
theorem everyRunningStepCompletes : Obligations.EveryRunningStepCompletes := by
  intro s hs
  cases hf : s.fetchFault with
  | some record => exact ⟨_, cycle_of_fetchFault _ hs hf⟩
  | none =>
    have hfetch : s.Fetchable := State.fetchFault_eq_none.mp hf
    cases hd : decodeWord s.wordAtPc with
    | none => exact ⟨_, cycle_of_noOpWord _ hs hfetch hd⟩
    | some i =>
      obtain ⟨u, hexec⟩ := exec_completes i (s.beginStep (Config.randomByte s.draws)).advancePc
      exact ⟨_, cycle_of_exec _ hs hfetch hd hexec⟩

/-- Settles O13: a step halts at the fetch, before the advance, or in an instruction, which has changed
status alone. -/
theorem faultingStepsDoNotTick : Obligations.FaultingStepsDoNotTick := by
  intro s t record h hhalted
  obtain ⟨hs, ⟨record', -, rfl⟩ | ⟨-, -, rfl⟩ | ⟨-, i, u, -, hexec, rfl⟩⟩ := cycle_cases h
  · rw [State.endStep_of_halted (State.raiseFatal_status _ _)] at hhalted ⊢
    cases hhalted
    exact ⟨.inl rfl, rfl⟩
  · rw [State.endStep_status] at hhalted
    cases hs.symm.trans hhalted
  · rw [State.endStep_status] at hhalted
    have hprecise := executionFaultsArePrecise i (s.beginStep _).advancePc u record hs hexec hhalted
    rw [State.endStep_of_halted hhalted, hprecise]
    exact ⟨.inr rfl, rfl⟩

/-- Settles O16: an instruction keeps the host's elements by its frame; the step itself writes phase. -/
theorem stepsLeaveTheHostsElementsAlone : Obligations.StepsLeaveTheHostsElementsAlone := by
  intro s t h
  obtain ⟨-, ⟨record, -, rfl⟩ | ⟨-, -, rfl⟩ | ⟨-, i, u, -, hexec, rfl⟩⟩ := cycle_cases h
  · simp
  · simp
  · have same : ∀ e ∈ hostElements, e.same _ u := fun e he =>
      exec_same (not_mem_writtenElements he i) hexec
    simp only [State.endStep_keypad, State.endStep_fontLoaded, State.endStep_romLoaded,
      State.endStep_params, State.endStep_phase]
    exact ⟨same .keypad (by decide), same .fontLoaded (by decide), same .romLoaded (by decide),
      same .params (by decide), same .phase (by decide)⟩

/-! ### The result of a step (R85) -/

theorem writesVideo_iff {i : Instr} :
    writesVideo i = true ↔ (∃ ign, i = .cls ign) ∨ ∃ x y n, i = .drw x y n := by
  cases i <;> simp [writesVideo]

theorem State.fetchesVideoWriter_iff : s.fetchesVideoWriter = true ↔
    (∃ ign, decodeWord s.wordAtPc = some (.cls ign)) ∨
    ∃ x y n, decodeWord s.wordAtPc = some (.drw x y n) := by
  have hword : s.fetchWord = s.wordAtPc := rfl
  rw [State.fetchesVideoWriter, hword]
  cases decodeWord s.wordAtPc with
  | none => simp
  | some i => simp [writesVideo_iff]

/-- Settles O14: the result reads the status of the next state and the word at pc. -/
theorem stepOutputReportsFaultAndVideo : Obligations.StepOutputReportsFaultAndVideo := by
  intro rnd s t h
  refine ⟨fun record ht => ?_, fun ht => ⟨⟨none, s.fetchesVideoWriter⟩, ?_, rfl,
    State.fetchesVideoWriter_iff⟩⟩
  · simp only [cycleOutput, h, ht]
  · simp only [cycleOutput, h, ht]

end Sys2Proof.Machine
end

section
/-! PROOFS. What no instruction observes: the sound timer (10_state.md R28), the stack entries at and above
sp (R25) and, but for RND, the random byte (60_exceptions.md R229). One lemma lays other values of all three
over a state and runs the instruction; the statements follow. -/

namespace Sys2Proof.Machine

variable {s t u : State}

/-! ### Other values of the unobserved elements -/

/-- `s` with another stack, sound timer and random byte. -/
def State.overlay (s : State) (stack : Vector Word 16) (sound rnd : Byte) : State :=
  { s with stack := stack, ST := sound, rnd := rnd }

/-- The outcome with its next state, if it has one, put through `f`. -/
def mapNext (f : State → State) : Result → Result
  | .next s => .next (f s)
  | .fault r => .fault r
  | .refused r => .refused r

section
variable (stack : Vector Word 16) (sound rnd : Byte)

theorem State.skipIf_overlay (s : State) (taken : Bool) :
    (s.overlay stack sound rnd).skipIf taken = (s.skipIf taken).overlay stack sound rnd := by
  cases taken <;> rfl

theorem State.flagThenResult_overlay (s : State) (x : Reg) (r : Byte) (f : Bool) :
    (s.overlay stack sound rnd).flagThenResult x r f =
      (s.flagThenResult x r f).overlay stack sound rnd := by
  have hparams : (s.overlay stack sound rnd).params = s.params := rfl
  simp only [State.flagThenResult, hparams]
  split <;> rfl

/-- The range check looks at I and the length only, and its record at pc and the word. -/
theorem State.withRange_overlay (s : State) (i : Instr) (n : Nat)
    (hu : u = t.overlay stack sound rnd) : (s.overlay stack sound rnd).withRange i n u =
      mapNext (·.overlay stack sound rnd) (s.withRange i n t) := by
  subst hu
  have hI : (s.overlay stack sound rnd).I = s.I := rfl
  simp only [State.withRange, hI]
  split <;> rfl

/-- An instruction that reads and writes neither the stack, the sound timer nor the random byte runs the
same under other values of the three. -/
theorem exec_overlay {i : Instr} (hsp : .sp ∉ writtenElements i) (hST : .ST ∉ writtenElements i)
    (hrnd : ∀ x kk, i ≠ .rnd x kk) (s : State) : exec i (s.overlay stack sound rnd) =
      mapNext (·.overlay stack sound rnd) (exec i s) := by
  cases i with
  | call | ret => exact absurd (by simp [writtenElements]) hsp
  | ldSTVx => exact absurd (List.mem_singleton_self _) hST
  | rnd x kk => exact absurd rfl (hrnd x kk)
  | seImm | sneImm | seReg | sneReg =>
    exact congrArg Host.Outcome.next (s.skipIf_overlay stack sound rnd _)
  | sub | shr | subn | shl =>
    exact congrArg Host.Outcome.next (s.flagThenResult_overlay stack sound rnd _ _ _)
  | drw | ldB | storeRegs | loadRegs => exact State.withRange_overlay stack sound rnd s _ _ rfl
  | skp x | sknp x =>
    have hkey : (s.overlay stack sound rnd).keyHeld ((s.overlay stack sound rnd).reg x) =
        s.keyHeld (s.reg x) := rfl
    simp only [exec, execSkp, execSknp, hkey]
    cases s.keyHeld (s.reg x) with
    | some held => exact congrArg Host.Outcome.next (s.skipIf_overlay stack sound rnd _)
    | none => rfl
  | ldVxK x =>
    have hkey : (s.overlay stack sound rnd).lowestHeldKey = s.lowestHeldKey := rfl
    simp only [exec, execLdVxK, hkey]
    cases s.lowestHeldKey with
    | some k => rfl
    | none => rfl
  | _ => rfl

end

/-! ### The stack below sp -/

/-- `stack` has the entries of `s` that lie below sp. -/
def State.AgreesBelowSp (s : State) (stack : Vector Word 16) : Prop :=
  ∀ j (h : j < 16), j < s.sp.val → stack[j] = s.stack[j]

/-- From `s` to `t`, `stack` laid over `s` has become `stack'`: it has the entries of `t` below sp, and all
of them if it had all of `s`. -/
def StackFollows (s t : State) (stack stack' : Vector Word 16) : Prop :=
  t.AgreesBelowSp stack' ∧ (stack = s.stack → stack' = t.stack)

section
variable {stack : Vector Word 16} (sound rnd : Byte) (hagree : s.AgreesBelowSp stack)
include hagree

/-- CALL pushes over any stack, at sp. -/
theorem exec_call_overlay {nnn : Addr} (h : exec (.call nnn) s = .next t) :
    ∃ stack', exec (.call nnn) (s.overlay stack sound rnd) = .next (t.overlay stack' sound rnd) ∧
      StackFollows s t stack stack' := by
  obtain hsp | hsp : s.sp.val < 16 ∨ s.sp.val = 16 := by omega
  · rw [exec_call_of_lt nnn hsp] at h
    cases h
    refine ⟨stack.set s.sp.val s.pc, exec_call_of_lt (s := s.overlay stack sound rnd) nnn hsp,
      fun j hj hlt => ?_, fun e => by rw [e]⟩
    obtain rfl | hne := eq_or_ne j s.sp.val
    · rw [Vector.getElem_set_self, Vector.getElem_set_self]
    · have hbelow : j < s.sp.val := Nat.lt_of_le_of_ne (Nat.le_of_lt_succ hlt) hne
      rw [Vector.getElem_set_ne _ _ hne.symm, Vector.getElem_set_ne _ _ hne.symm, hagree j hj hbelow]
  · rw [exec_call_of_full nnn hsp] at h
    cases h
    exact ⟨stack, exec_call_of_full (s := s.overlay stack sound rnd) nnn hsp, hagree, id⟩

/-- RET reads the entry below sp, where the stacks agree, and lowers sp. -/
theorem exec_ret_overlay {ign : Nibble} (h : exec (.ret ign) s = .next t) :
    ∃ stack', exec (.ret ign) (s.overlay stack sound rnd) = .next (t.overlay stack' sound rnd) ∧
      StackFollows s t stack stack' := by
  by_cases hsp : s.sp.val = 0
  · rw [exec_ret_of_empty ign hsp] at h
    cases h
    exact ⟨stack, exec_ret_of_empty (s := s.overlay stack sound rnd) ign hsp, hagree, id⟩
  · have htop : stack[s.sp.val - 1] = s.stack[s.sp.val - 1] := hagree _ (by omega) (by omega)
    rw [exec_ret_of_pos ign hsp] at h
    cases h
    refine ⟨stack, ?_, fun j hj hlt => hagree j hj (Nat.lt_of_lt_of_le hlt (Nat.sub_le _ 1)), id⟩
    rw [exec_ret_of_pos (s := s.overlay stack sound rnd) ign hsp]
    exact congrArg (fun pc => Host.Outcome.next { s with
      stack := stack, ST := sound, rnd := rnd, sp := ⟨s.sp.val - 1, by omega⟩, pc := pc }) htop

/-- An instruction that leaves the stack alone leaves whatever is laid over it. -/
theorem stackFollows_of_same {i : Instr} (hsp : .sp ∉ writtenElements i) (h : exec i s = .next t) :
    StackFollows s t stack stack := by
  have hstack : .stack ∉ writtenElements i := fun hmem => hsp (by
    cases i with
    | call => simp [writtenElements]
    | _ => simp [writtenElements] at hmem)
  have same_stack : t.stack = s.stack := exec_same hstack h
  have same_sp : t.sp = s.sp := exec_same hsp h
  refine ⟨?_, fun e => e.trans same_stack.symm⟩
  simpa only [State.AgreesBelowSp, same_stack, same_sp] using hagree

/-- Every instruction runs the same under another sound timer, another stack at and above sp and, if it is
not RND, another random byte: only LD ST,Vx sets the timer, and only CALL and RET move the stack. -/
theorem exec_overlay_of_agreesBelowSp {i : Instr}
    (hrnd : (∀ x kk, i ≠ .rnd x kk) ∨ rnd = s.rnd) (h : exec i s = .next t) :
    ∃ stack' sound', exec i (s.overlay stack sound rnd) = .next (t.overlay stack' sound' rnd) ∧
      StackFollows s t stack stack' ∧ (sound = s.ST → sound' = t.ST) := by
  by_cases hST : .ST ∈ writtenElements i
  · obtain ⟨x, rfl⟩ : ∃ x, i = .ldSTVx x := by
      cases i with
      | ldSTVx x => exact ⟨x, rfl⟩
      | _ => simp [writtenElements] at hST
    cases h
    exact ⟨stack, s.reg x, rfl, ⟨hagree, id⟩, fun _ => rfl⟩
  · have same_ST : t.ST = s.ST := exec_same hST h
    by_cases hsp : .sp ∈ writtenElements i
    · have moved : ∃ stack', exec i (s.overlay stack sound rnd) =
          .next (t.overlay stack' sound rnd) ∧ StackFollows s t stack stack' := by
        cases i with
        | call nnn => exact exec_call_overlay sound rnd hagree h
        | ret ign => exact exec_ret_overlay sound rnd hagree h
        | _ => simp [writtenElements] at hsp
      obtain ⟨stack', hexec, hfollows⟩ := moved
      exact ⟨stack', sound, hexec, hfollows, fun e => e.trans same_ST.symm⟩
    · have hexec : exec i (s.overlay stack sound rnd) = .next (t.overlay stack sound rnd) := by
        obtain hrnd | rfl := hrnd
        · rw [exec_overlay stack sound rnd hsp hST hrnd, h]
          rfl
        · cases i with
          | rnd x kk => cases h; rfl
          | _ => rw [exec_overlay stack sound s.rnd hsp hST (by simp), h]; rfl
      exact ⟨stack, sound, hexec, stackFollows_of_same hagree hsp h, fun e => e.trans same_ST.symm⟩

end

theorem exec_same_rnd {i : Instr} (h : exec i s = .next t) : t.rnd = s.rnd :=
  exec_same (not_mem_writtenElements (e := .rnd) (by decide) i) h

/-! ### The statements -/

/-- Settles O17: the overlay of a sound timer. -/
theorem noInstructionReadsTheSoundTimer : Obligations.NoInstructionReadsTheSoundTimer := by
  intro i s t v h
  obtain ⟨stack', sound', hexec, ⟨-, hstack⟩, -⟩ :=
    exec_overlay_of_agreesBelowSp (stack := s.stack) v s.rnd (fun _ _ _ => rfl) (.inr rfl) h
  refine ⟨_, hexec, ?_⟩
  rw [hstack rfl, ← exec_same_rnd h]
  rfl

/-- Settles O18: the overlay of a stack. -/
theorem poppedStackEntriesAreNotObserved : Obligations.PoppedStackEntriesAreNotObserved := by
  intro i s t stack hagree h
  obtain ⟨stack', sound', hexec, ⟨hbelow, -⟩, hsound⟩ :=
    exec_overlay_of_agreesBelowSp s.ST s.rnd hagree (.inr rfl) h
  refine ⟨_, hexec, ?_, hbelow⟩
  rw [hsound rfl, ← exec_same_rnd h]
  rfl

/-- An instruction other than RND answers the same under another random byte, up to that byte. -/
theorem exec_withRnd {i : Instr} (hi : ∀ x kk, i ≠ .rnd x kk) (b : Byte) (h : exec i s = .next t) :
    exec i { s with rnd := b } = .next { t with rnd := b } := by
  obtain ⟨stack', sound', hexec, ⟨-, hstack⟩, hsound⟩ :=
    exec_overlay_of_agreesBelowSp (stack := s.stack) s.ST b (fun _ _ _ => rfl) (.inl hi) h
  rw [hstack rfl, hsound rfl] at hexec
  exact hexec

/-- Settles O15: the byte is in no outcome but through RND, and is gone at the end of the step. -/
theorem randomByteMattersOnlyToRnd : Obligations.RandomByteMattersOnlyToRnd := by
  intro a b s hnot
  cases hs : s.status with
  | halted record => rw [cycle_of_halted a hs, cycle_of_halted b hs]
  | running =>
    cases hf : s.fetchFault with
    | some record => rw [cycle_of_fetchFault a hs hf, cycle_of_fetchFault b hs hf]; rfl
    | none =>
      have hfetch : s.Fetchable := State.fetchFault_eq_none.mp hf
      cases hd : decodeWord s.wordAtPc with
      | none => rw [cycle_of_noOpWord a hs hfetch hd, cycle_of_noOpWord b hs hfetch hd]; rfl
      | some i =>
        have hi : ∀ x kk, i ≠ .rnd x kk := fun x kk e => hnot x kk (e ▸ hd)
        obtain ⟨u, hexec⟩ := exec_completes i (s.beginStep a).advancePc
        have hexec_b : exec i (s.beginStep b).advancePc = .next { u with rnd := b } :=
          exec_withRnd hi b hexec
        rw [cycle_of_exec a hs hfetch hd hexec, cycle_of_exec b hs hfetch hd hexec_b]
        exact congrArg Host.Outcome.next (u.endStep_withRnd b).symm

end Sys2Proof.Machine
end

section
/-! PROOFS. The host's operations (60_exceptions.md R220 to R223, 70_reset_and_hazards.md): when each load
is admitted and what it does; the invariant of 10_state.md section 8, kept by every operation; and the
statements about reset, the loads and the invariant. -/

namespace Sys2Proof.Machine

variable {s t u : State}

/-! ### When a load is admitted (R255) -/

theorem State.setupOpen_iff : s.setupOpen = true ↔ s.status = .running ∧ s.phase = .setup := by
  simp [State.setupOpen]

/-- Outside setup, on a halted core or a second time neither load is admitted. -/
theorem State.not_admitted {loaded : Bool}
    (h : s.phase = .run ∨ s.status ≠ .running ∨ loaded = true) :
    ¬ (s.setupOpen && !loaded) = true := by
  rw [Bool.and_eq_true, State.setupOpen_iff, Bool.not_eq_true']
  rintro ⟨⟨hs, hphase⟩, hloaded⟩
  obtain hrun | hhalted | htwice := h
  · cases hphase.symm.trans hrun
  · exact hhalted hs
  · cases hloaded.symm.trans htwice

theorem State.admitted_or_not (s : State) (loaded : Bool) :
    (s.phase = .setup ∧ s.status = .running ∧ loaded = false) ∨
    (s.phase = .run ∨ s.status ≠ .running ∨ loaded = true) := by
  cases s.phase with
  | run => exact .inr (.inl rfl)
  | setup =>
    by_cases hs : s.status = .running
    · exact (Bool.eq_false_or_eq_true loaded).symm.imp (⟨rfl, hs, ·⟩) (.inr <| .inr ·)
    · exact .inr (.inr (.inl hs))

theorem loadFont_of_admitted (hphase : s.phase = .setup) (hs : s.status = .running)
    (hfont : s.fontLoaded = false) : loadFont s =
      .next { s.storeBytes fontBase s.params.font.toList with fontLoaded := true } := by
  have hopen : s.setupOpen = true := State.setupOpen_iff.mpr ⟨hs, hphase⟩
  rw [loadFont, hopen, hfont]
  rfl

theorem loadFont_of_not_admitted (h : s.phase = .run ∨ s.status ≠ .running ∨ s.fontLoaded = true) :
    loadFont s = .refused .fontLoadNotAdmitted := by
  rw [loadFont, if_neg (State.not_admitted h)]

theorem loadRom_of_admitted {bytes : List Byte} (hphase : s.phase = .setup) (hs : s.status = .running)
    (hrom : s.romLoaded = false) (hlen : bytes.length ≤ 3584) : loadRom bytes s =
      .next { s.storeBytes programBase bytes with romLoaded := true } := by
  have hopen : s.setupOpen = true := State.setupOpen_iff.mpr ⟨hs, hphase⟩
  have hfits : ¬ bytes.length > romMax := Nat.not_lt.mpr hlen
  rw [loadRom, hopen, hrom, if_neg hfits]
  rfl

theorem loadRom_of_too_large {bytes : List Byte} (hphase : s.phase = .setup) (hs : s.status = .running)
    (hrom : s.romLoaded = false) (hlen : 3584 < bytes.length) : loadRom bytes s =
      .next (s.raiseFatal (romTooLargeRecord bytes.length)) := by
  have hopen : s.setupOpen = true := State.setupOpen_iff.mpr ⟨hs, hphase⟩
  have hlarge : bytes.length > romMax := hlen
  rw [loadRom, hopen, hrom, if_pos hlarge]
  rfl

theorem loadRom_of_not_admitted (bytes : List Byte)
    (h : s.phase = .run ∨ s.status ≠ .running ∨ s.romLoaded = true) :
    loadRom bytes s = .refused .romLoadNotAdmitted := by
  rw [loadRom, if_neg (State.not_admitted h)]

/-- A font load that answers a next state was admitted. -/
theorem loadFont_eq_next (h : loadFont s = .next t) :
    t = { s.storeBytes fontBase s.params.font.toList with fontLoaded := true } := by
  obtain ⟨hphase, hs, hfont⟩ | hnot := s.admitted_or_not s.fontLoaded
  · exact Host.Outcome.next.inj (h.symm.trans (loadFont_of_admitted hphase hs hfont))
  · cases h.symm.trans (loadFont_of_not_admitted hnot)

/-- A ROM load that answers a next state has stored the ROM, or halted the core at its length. -/
theorem loadRom_eq_next {bytes : List Byte} (h : loadRom bytes s = .next t) :
    (bytes.length ≤ 3584 ∧ t = { s.storeBytes programBase bytes with romLoaded := true }) ∨
    t = s.raiseFatal (romTooLargeRecord bytes.length) := by
  obtain ⟨hphase, hs, hrom⟩ | hnot := s.admitted_or_not s.romLoaded
  · obtain hlarge | hlen := Nat.lt_or_ge 3584 bytes.length
    · exact .inr (Host.Outcome.next.inj (h.symm.trans (loadRom_of_too_large hphase hs hrom hlarge)))
    · exact .inl ⟨hlen, Host.Outcome.next.inj
        (h.symm.trans (loadRom_of_admitted hphase hs hrom hlen))⟩
  · cases h.symm.trans (loadRom_of_not_admitted bytes hnot)

/-! ### The statements about reset and the loads -/

/-- Settles O50: the values of the reset state. -/
theorem resetHoldsTheListedValues : Obligations.ResetHoldsTheListedValues := by
  refine ⟨fun r => ?_, rfl, rfl, fun j hj => ?_, rfl, rfl, rfl, fun k hk => ?_,
    fun p _ => Framebuffer.pixel_off (p % 64) (p / 64), fun _ => rfl, rfl, rfl, rfl, rfl⟩
  · exact Vector.getElem_replicate r.isLt
  · exact Vector.getElem_replicate hj
  · exact Vector.getElem_replicate hk

/-- Settles O51: reset reads of the state before it only the parameters and the counter of draws. -/
theorem resetOperationGivesTheResetState : Obligations.ResetOperationGivesTheResetState :=
  fun _ => ⟨_, rfl, rfl⟩

/-- Settles O52: the latch is replaced whole. -/
theorem setKeysWritesTheWholeLatch : Obligations.SetKeysWritesTheWholeLatch :=
  fun _ _ => ⟨_, rfl, fun _ _ => rfl, rfl⟩

/-- Settles O53: an admitted load is one store of the 80 bytes. -/
theorem fontLoadWritesTheFontOnce : Obligations.FontLoadWritesTheFontOnce := by
  refine fun s => ⟨fun hphase hs hfont => ⟨_, loadFont_of_admitted hphase hs hfont, rfl,
    fun i hi => ?_, fun a ha => ?_, rfl⟩, loadFont_of_not_admitted⟩
  · exact s.readByte_storeBytes_inside fontBase i s.params.font.toList (by simpa using hi)
  · exact s.readByte_storeBytes_outside fontBase a s.params.font.toList
      (by rw [fontBase, Vector.length_toList]; omega)

/-- Settles O54: an admitted load is one store of the ROM, or the fault of its length. -/
theorem romLoadWritesTheRomOnce : Obligations.RomLoadWritesTheRomOnce := fun bytes s =>
  ⟨fun hphase hs hrom hlen => ⟨_, loadRom_of_admitted hphase hs hrom hlen, rfl,
      fun i hi => s.readByte_storeBytes_inside programBase i bytes hi,
      fun a ha => s.readByte_storeBytes_outside programBase a bytes ha, rfl⟩,
    loadRom_of_too_large, loadRom_of_not_admitted bytes⟩

/-- Settles O23: on a halted core a load is refused, a step is the fault, and a tick does nothing. -/
theorem onlyResetLeavesHalted : Obligations.OnlyResetLeavesHalted := by
  intro op s t record hs h hop
  have hnot : s.status ≠ .running := by simp [hs]
  cases op with
  | reset => exact absurd rfl hop
  | loadFont => cases h.symm.trans (loadFont_of_not_admitted (.inr (.inl hnot)))
  | loadRom bytes => cases h.symm.trans (loadRom_of_not_admitted bytes (.inr (.inl hnot)))
  | setKeys k => cases h; rfl
  | step rnd => cases h.symm.trans (cycle_of_halted rnd hs)
  | tickTimers =>
    obtain rfl : s.tick = t := Host.Outcome.next.inj h
    rw [State.tick_of_halted s record hs]

/-! ### The invariant without the random byte, and before an instruction -/

/-- The invariant but for the random byte, which a step holds while it runs. -/
structure State.Bounded (s : State) : Prop where
  memCanonical : s.mem.wf = true
  memInRange : s.mem.inRange = true
  pcBound : s.pc.toNat ≤ 0x10FE
  stackBound : ∀ j (h : j < 16), s.stack[j].toNat ≤ 0x1000

/-- What an instruction runs on: pc has been advanced from an address that was fetched. -/
structure State.Advanced (s : State) : Prop extends s.Bounded where
  pcLow : 2 ≤ s.pc.toNat
  pcHigh : s.pc.toNat ≤ 0x1000

theorem State.Inv.bounded (hs : s.Inv) : s.Bounded :=
  ⟨hs.memCanonical, hs.memInRange, hs.pcBound, hs.stackBound⟩

section
variable (hs : s.Bounded)
include hs

/-- The bounds speak of memory, pc and the stack only. -/
theorem State.Bounded.of_eq (hmem : t.mem = s.mem) (hpc : t.pc = s.pc) (hstack : t.stack = s.stack) :
    t.Bounded where
  memCanonical := hmem ▸ hs.memCanonical
  memInRange := hmem ▸ hs.memInRange
  pcBound := hpc ▸ hs.pcBound
  stackBound := hstack ▸ hs.stackBound

theorem State.Bounded.inv_of_eq (hmem : t.mem = s.mem) (hpc : t.pc = s.pc) (hstack : t.stack = s.stack)
    (hrnd : t.rnd = 0) : t.Inv :=
  let ⟨memCanonical, memInRange, pcBound, stackBound⟩ := hs.of_eq hmem hpc hstack
  ⟨memCanonical, memInRange, pcBound, stackBound, hrnd⟩

theorem State.Bounded.setPc {v : Word} (hv : v.toNat ≤ 0x10FE) : (s.setPc v).Bounded :=
  ⟨hs.memCanonical, hs.memInRange, hv, hs.stackBound⟩

/-- A store that lies in memory keeps the bounds. -/
theorem State.Bounded.storeBytes {a : Nat} {vs : List Byte} (h : a + vs.length ≤ 0x1000) :
    (s.storeBytes a vs).Bounded :=
  ⟨Memory.wf_writeBytes hs.memCanonical a vs, Memory.inRange_writeBytes hs.memInRange a vs (.inr h),
    hs.pcBound, hs.stackBound⟩

theorem State.Bounded.raiseFatal (record : FaultRecord) : (s.raiseFatal record).Bounded :=
  hs.of_eq rfl rfl rfl

theorem State.Bounded.endStep : s.endStep.Inv :=
  hs.inv_of_eq s.endStep_mem s.endStep_pc s.endStep_stack s.endStep_rnd

/-- A ranged access that keeps the bounds where it is admitted keeps them. -/
theorem State.Bounded.withRange {i : Instr} {n : Nat}
    (ht : n = 0 ∨ s.I.toNat + n ≤ 0x1000 → t.Bounded) (hu : s.withRange i n t = .next u) :
    u.Bounded := by
  obtain ⟨hin, rfl⟩ | ⟨-, -, rfl⟩ := State.withRange_cases hu
  · exact ht hin
  · exact hs.raiseFatal _

end

section
variable (hs : s.Advanced)
include hs

theorem State.Advanced.skipIf (taken : Bool) : (s.skipIf taken).Bounded := by
  have hpc := hs.pcHigh
  cases taken with
  | false => exact hs.toBounded
  | true => exact hs.toBounded.setPc (v := s.pc + 2) (by bv_omega)

/-- An instruction that skips or halts the core keeps the bounds. -/
theorem State.Advanced.skip_or_halt {i : Instr}
    (answer : (∃ taken, exec i s = .next (s.skipIf taken)) ∨
      ∃ record, exec i s = .next (s.raiseFatal record))
    (h : exec i s = .next t) : t.Bounded := by
  obtain ⟨taken, hskip⟩ | ⟨record, hhalt⟩ := answer
  · exact Host.Outcome.next.inj (h.symm.trans hskip) ▸ hs.skipIf taken
  · exact Host.Outcome.next.inj (h.symm.trans hhalt) ▸ hs.toBounded.raiseFatal record

/-- The return address that CALL pushes is the advanced pc. -/
theorem State.Advanced.call {nnn : Addr} (h : exec (.call nnn) s = .next t) : t.Bounded := by
  obtain hsp | hsp : s.sp.val < 16 ∨ s.sp.val = 16 := by omega
  · rw [exec_call_of_lt nnn hsp] at h
    cases h
    refine ⟨hs.memCanonical, hs.memInRange, ?_, fun j hj => ?_⟩
    · rw [toNat_addrOf]; omega
    · obtain rfl | hne := eq_or_ne s.sp.val j
      · rw [Vector.getElem_set_self]; exact hs.pcHigh
      · rw [Vector.getElem_set_ne _ _ hne]; exact hs.stackBound j hj
  · rw [exec_call_of_full nnn hsp] at h
    cases h
    exact hs.toBounded.raiseFatal _

/-- RET jumps to a return address. -/
theorem State.Advanced.ret {ign : Nibble} (h : exec (.ret ign) s = .next t) : t.Bounded := by
  by_cases hsp : s.sp.val = 0
  · rw [exec_ret_of_empty ign hsp] at h
    cases h
    exact hs.toBounded.raiseFatal _
  · rw [exec_ret_of_pos ign hsp] at h
    cases h
    exact ⟨hs.memCanonical, hs.memInRange, (hs.stackBound _ _).trans (by omega), hs.stackBound⟩

/-- LD Vx,K may take the advance back. -/
theorem State.Advanced.ldVxK {x : Reg} (h : exec (.ldVxK x) s = .next t) : t.Bounded := by
  have hlow := hs.pcLow
  have hhigh := hs.pcHigh
  cases hkey : s.lowestHeldKey with
  | some k =>
    rw [exec_ldVxK_of_some x hkey] at h
    cases h
    exact hs.toBounded.of_eq rfl rfl rfl
  | none =>
    rw [exec_ldVxK_of_none x hkey] at h
    cases h
    exact hs.toBounded.setPc (v := s.pc - 2) (by bv_omega)

/-- Every instruction keeps the bounds: jumps reach at most 0x10FE, skips move pc by 2, and stores are
checked. -/
theorem State.Advanced.exec {i : Instr} (h : exec i s = .next t) : t.Bounded := by
  cases i with
  | jp nnn => cases h; exact hs.toBounded.setPc (by rw [toNat_addrOf]; omega)
  | jpV0 nnn => cases h; exact hs.toBounded.setPc (by rw [toNat_indexedTarget]; omega)
  | call nnn => exact hs.call h
  | ret ign => exact hs.ret h
  | seImm | sneImm | seReg | sneReg => cases h; exact hs.skipIf _
  | skp x =>
    exact hs.skip_or_halt ((Nat.lt_or_ge _ 16).imp (⟨_, exec_skp_of_lt ·⟩) (⟨_, exec_skp_of_ge ·⟩)) h
  | sknp x =>
    exact hs.skip_or_halt ((Nat.lt_or_ge _ 16).imp (⟨_, exec_sknp_of_lt ·⟩) (⟨_, exec_sknp_of_ge ·⟩)) h
  | ldVxK x => exact hs.ldVxK h
  | ldB x =>
    refine hs.toBounded.withRange (fun hin => hs.toBounded.storeBytes ?_) h
    have hlength : (decimalDigits (s.reg x)).length = 3 := rfl
    omega
  | storeRegs x =>
    refine hs.toBounded.withRange (fun hin => hs.toBounded.storeBytes ?_) h
    rw [State.length_regBlock]
    exact hin.resolve_left (Nat.succ_ne_zero x.val)
  | drw | loadRegs =>
    refine hs.toBounded.withRange (fun _ => ?_) h
    exact hs.toBounded.of_eq rfl rfl rfl
  | sub | shr | subn | shl =>
    cases h
    exact hs.toBounded.of_eq (s.flagThenResult_mem _ _ _) (s.flagThenResult_pc _ _ _)
      (s.flagThenResult_stack _ _ _)
  | _ => cases h; exact hs.toBounded.of_eq rfl rfl rfl

end

/-! ### Every operation keeps the invariant -/

/-- A fetched address is at most 0xFFE, so the advance does not wrap. -/
theorem State.Inv.advanced (hs : s.Inv) (hf : s.fetchFault = none) (rnd : Byte) :
    (s.beginStep rnd).advancePc.Advanced := by
  obtain ⟨-, hpc⟩ := State.fetchFault_eq_none.mp hf
  have hnext : (s.pc + 2).toNat = s.pc.toNat + 2 := by bv_omega
  exact { hs.bounded.setPc (v := s.pc + 2) (by omega) with
    pcLow := by rw [State.advancePc_pc, State.beginStep_pc]; omega
    pcHigh := by rw [State.advancePc_pc, State.beginStep_pc]; omega }

theorem State.Inv.cycle {rnd : Byte} (hs : s.Inv) (h : cycle rnd s = .next t) : t.Inv := by
  obtain ⟨-, ⟨record, -, rfl⟩ | ⟨hf, -, rfl⟩ | ⟨hf, i, u, -, hexec, rfl⟩⟩ := cycle_cases h
  · have hbegun : (s.beginStep rnd).Bounded := hs.bounded.of_eq rfl rfl rfl
    exact (hbegun.raiseFatal record).endStep
  · exact (hs.advanced hf rnd).toBounded.endStep
  · exact ((hs.advanced hf rnd).exec hexec).endStep

theorem State.inv_resetWith (params : Config.Params) : (State.resetWith params).Inv where
  memCanonical := rfl
  memInRange := rfl
  pcBound := by simp [State.resetWith]
  stackBound j hj := by simp [State.resetWith]
  noByteLeft := rfl

/-- Settles O22: memory is empty, pc is 0x200 and the stack is zero. -/
theorem resetHasTheInvariant : Obligations.ResetHasTheInvariant :=
  ⟨State.inv_resetWith defaultParams, State.inv_resetWith⟩

/-- Settles O20: an instruction runs within the bounds of a fetched pc and keeps those of the invariant. -/
theorem everyStepKeepsTheInvariant : Obligations.EveryStepKeepsTheInvariant :=
  fun _ _ hs h => hs.cycle h

/-- Settles O21: the font and the ROM are stored inside memory; the other operations beside the step write
nothing the invariant speaks of. -/
theorem everyHostOperationKeepsTheInvariant : Obligations.EveryHostOperationKeepsTheInvariant := by
  intro op s t hs h
  cases op with
  | reset =>
    cases h
    exact (State.inv_resetWith s.params).bounded.inv_of_eq rfl rfl rfl rfl
  | loadFont =>
    obtain rfl := loadFont_eq_next h
    have hstored := hs.bounded.storeBytes (a := fontBase) (vs := s.params.font.toList)
      (by rw [fontBase, Vector.length_toList]; omega)
    exact hstored.inv_of_eq rfl rfl rfl hs.noByteLeft
  | loadRom bytes =>
    obtain ⟨hlen, rfl⟩ | rfl := loadRom_eq_next h
    · have hstored := hs.bounded.storeBytes (a := programBase) (vs := bytes)
        (by rw [programBase]; omega)
      exact hstored.inv_of_eq rfl rfl rfl hs.noByteLeft
    · exact hs.bounded.inv_of_eq rfl rfl rfl hs.noByteLeft
  | setKeys k => cases h; exact hs.bounded.inv_of_eq rfl rfl rfl hs.noByteLeft
  | step rnd => exact hs.cycle h
  | tickTimers =>
    cases h
    exact hs.bounded.inv_of_eq s.tick_mem s.tick_pc s.tick_stack (s.tick_rnd.trans hs.noByteLeft)

end Sys2Proof.Machine
end
